-- ==== Sys2Proof/Word.lean ====
section
/-! DEFINITION. The word types of the block: a byte (00_scope.md R10) and a value of the
millisecond time base, whose width `CLK_W` is fixed at 32 (00_scope.md R6). -/

namespace Sys2Proof

/-- A byte, 8 bits (R10). -/
abbrev Byte := BitVec 8

/-- A sample of `now_ms`, or a timestamp or duration register: `CLK_W` = 32 bits (R6, R23). -/
abbrev Time := BitVec 32

end Sys2Proof
end

