-- ==== Sys2Proof/Syntax.lean ====
section
/-! DEFINITION. The 30 operations of spec/opcode_table.json, one constructor each.

An operation has no register operand (10_state.md R21). What a constructor carries is
* `ch`, the index of the channel that performs it (every channel performs its own operation
  each cycle, 40_frame_reader.md R100, 41_pulse_generator.md R150; log entry 1), and
* the selector bits that the operation's encoding in 30_encoding.md R84 leaves free, under the
  letters R80 to R82 give them: `st` state code bits, `v` rx_valid, `k` frame_ack, `e` exp,
  `p` c1, `q` c0; `g` rt_valid, `d` dg, `h` phase; `x` exp_p. -/

namespace Sys2Proof

/-- The operations of the block, in the order of spec/opcode_table.json. -/
inductive Instr where
  /-- RD.RESET `1 sss v k e p q` (R230). -/
  | rdReset (ch : Nat) (st : BitVec 3) (v k e p q : Bool)
  /-- RD.IDLE `0 000 v k e p q` (R102). -/
  | rdIdle (ch : Nat) (v k e p q : Bool)
  /-- RD.RSV5 `0 101 v k e p q` (R103). -/
  | rdRsv5 (ch : Nat) (v k e p q : Bool)
  /-- RD.RSV67 `0 11s v k e p q` (R104); `s0` is bit 0 of the state code. -/
  | rdRsv67 (ch : Nat) (s0 v k e p q : Bool)
  /-- AS.WAIT `0 001 0 k 0 p q` (R105). -/
  | asWait (ch : Nat) (k p q : Bool)
  /-- AS.ADV `0 001 1 k 0 1 0` (R106). -/
  | asAdv (ch : Nat) (k : Bool)
  /-- AS.START `0 001 1 k 0 1 1` (R107). -/
  | asStart (ch : Nat) (k : Bool)
  /-- AS.MISS `0 001 1 k 0 0 q` (R108). -/
  | asMiss (ch : Nat) (k q : Bool)
  /-- AS.TMO `0 001 v k 1 p q` (R109). -/
  | asTmo (ch : Nat) (v k p q : Bool)
  /-- RB.WAIT `0 010 0 k 0 p q` (R110). -/
  | rbWait (ch : Nat) (k p q : Bool)
  /-- RB.OVF `0 010 1 k 0 1 q` (R111). -/
  | rbOvf (ch : Nat) (k q : Bool)
  /-- RB.APP `0 010 1 k 0 0 0` (R112). -/
  | rbApp (ch : Nat) (k : Bool)
  /-- RB.END `0 010 1 k 0 0 1` (R113). -/
  | rbEnd (ch : Nat) (k : Bool)
  /-- RB.TMO `0 010 v k 1 p q` (R114). -/
  | rbTmo (ch : Nat) (v k p q : Bool)
  /-- RT.WAIT `0 011 0 k 0 p q` (R115). -/
  | rtWait (ch : Nat) (k p q : Bool)
  /-- RT.APP `0 011 1 k 0 p 0` (R116). -/
  | rtApp (ch : Nat) (k p : Bool)
  /-- RT.LAST `0 011 1 k 0 p 1` (R117). -/
  | rtLast (ch : Nat) (k p : Bool)
  /-- RT.TMO `0 011 v k 1 p q` (R118). -/
  | rtTmo (ch : Nat) (v k p q : Bool)
  /-- CP.HOLD `0 100 v 0 e p q` (R119). -/
  | cpHold (ch : Nat) (v e p q : Bool)
  /-- CP.DLV `0 100 v 1 e p q` (R120). -/
  | cpDlv (ch : Nat) (v e p q : Bool)
  /-- PG.RESET `1 g d h` (R231). -/
  | pgReset (ch : Nat) (g d h : Bool)
  /-- RTG.NONE `0 0 d h` (R160). -/
  | rtgNone (ch : Nat) (d h : Bool)
  /-- RTG.I `0 1 0 0` (R152). -/
  | rtgI (ch : Nat)
  /-- RTG.A `0 1 0 1` (R153). -/
  | rtgA (ch : Nat)
  /-- RTG.DGI `0 1 1 0` (R154). -/
  | rtgDgi (ch : Nat)
  /-- RTG.DGA `0 1 1 1` (R155). -/
  | rtgDga (ch : Nat)
  /-- TK.DIS `0 h x` (R156). -/
  | tkDis (ch : Nat) (h x : Bool)
  /-- TK.WAIT `1 h 0` (R157). -/
  | tkWait (ch : Nat) (h : Bool)
  /-- TK.RISE `1 0 1` (R158). -/
  | tkRise (ch : Nat)
  /-- TK.FALL `1 1 1` (R159). -/
  | tkFall (ch : Nat)
  deriving DecidableEq, Repr

/-- The channel that performs the operation. -/
def Instr.channel : Instr → Nat
  | .rdReset ch _ _ _ _ _ _ => ch
  | .rdIdle ch _ _ _ _ _ => ch
  | .rdRsv5 ch _ _ _ _ _ => ch
  | .rdRsv67 ch _ _ _ _ _ _ => ch
  | .asWait ch _ _ _ => ch
  | .asAdv ch _ => ch
  | .asStart ch _ => ch
  | .asMiss ch _ _ => ch
  | .asTmo ch _ _ _ _ => ch
  | .rbWait ch _ _ _ => ch
  | .rbOvf ch _ _ => ch
  | .rbApp ch _ => ch
  | .rbEnd ch _ => ch
  | .rbTmo ch _ _ _ _ => ch
  | .rtWait ch _ _ _ => ch
  | .rtApp ch _ _ => ch
  | .rtLast ch _ _ => ch
  | .rtTmo ch _ _ _ _ => ch
  | .cpHold ch _ _ _ _ => ch
  | .cpDlv ch _ _ _ _ => ch
  | .pgReset ch _ _ _ => ch
  | .rtgNone ch _ _ => ch
  | .rtgI ch => ch
  | .rtgA ch => ch
  | .rtgDgi ch => ch
  | .rtgDga ch => ch
  | .tkDis ch _ _ => ch
  | .tkWait ch _ => ch
  | .tkRise ch => ch
  | .tkFall ch => ch

end Sys2Proof
end

