-- ==== Sys2Proof/WellFormed.lean ====
section
/-! DEFINITION. When an operation is well formed on a block of `numCh` channels: its channel
exists (60_exceptions.md R212: channels are indexed `0 .. NUM_CH - 1`). The free selector bits of
a constructor need no check: R83 gives every value of every selector exactly one row.
The legality of a configuration (00_scope.md R8) is `ChannelConfig.legal` in Machine/Ops.lean. -/

namespace Sys2Proof

/-- The operation's channel exists (R212). -/
def Instr.WellFormed (numCh : Nat) (i : Instr) : Bool :=
  decide (i.channel < numCh)

end Sys2Proof
end

