-- ==== Sys2Proof/Decode.lean ====
section
/-! DEFINITION. The selector words of 30_encoding.md R80 to R82 and their decoding (R83, R84), total
on any number, rejecting by name; then the encoder; then the opcode map of R84 as a table.

The block stores no instruction words (10_state.md R22, 20_memory.md R64): a selector is assembled
each cycle from state and inputs (Machine/Operands.lean). A selector value written as a number
has its bit 0 at the least significant end (R10, R80 to R82). -/

namespace Sys2Proof

/-- A selector word of one of the three formats (R80, R81, R82). -/
inductive Selector where
  /-- RSEL, the frame-reader selector, 9 bits (R80). -/
  | rsel (w : BitVec 9)
  /-- GSEL, the retarget selector, 4 bits (R81). -/
  | gsel (w : BitVec 4)
  /-- TSEL, the tick selector, 3 bits (R82). -/
  | tsel (w : BitVec 3)
  deriving DecidableEq, Repr

/-- The three formats (R80 to R82). -/
inductive Format where
  | rsel
  | gsel
  | tsel
  deriving DecidableEq, Repr

/-- Why a number is no selector word. -/
inductive DecodeError where
  /-- The number has a bit set above the format's width. -/
  | tooWide (f : Format) (w : Nat)
  /-- No format has this many bits. -/
  | noSuchWidth (nbits : Nat)
  deriving DecidableEq, Repr

/-- The width of a format in bits (R80 to R82). -/
def Format.width : Format → Nat
  | .rsel => 9
  | .gsel => 4
  | .tsel => 3

/-- `RSEL = {rst, st[2:0], rx_valid, frame_ack, exp, c1, c0}` (R80). -/
def rselWord (r : Bool) (st : BitVec 3) (v k e p q : Bool) : BitVec 9 :=
  BitVec.ofBool r ++ st ++ BitVec.ofBool v ++ BitVec.ofBool k ++ BitVec.ofBool e ++
    BitVec.ofBool p ++ BitVec.ofBool q

/-- `GSEL = {rst, rt_valid, dg, phase}` (R81). -/
def gselWord (r g d h : Bool) : BitVec 4 :=
  BitVec.ofBool r ++ BitVec.ofBool g ++ BitVec.ofBool d ++ BitVec.ofBool h

/-- `TSEL = {en, phase, exp_p}` (R82). -/
def tselWord (n h x : Bool) : BitVec 3 :=
  BitVec.ofBool n ++ BitVec.ofBool h ++ BitVec.ofBool x

/-- The RSEL rows of R84 by their fields, in the priority order of R83 and 60_exceptions.md R206:
`rst`; the state code; within states 1 to 3 the timeout over the byte; within ReadingBody
overflow over the end match. -/
def readerRow (ch : Nat) (r : Bool) (st : BitVec 3) (v k e p q : Bool) : Instr :=
  if r then .rdReset ch st v k e p q
  else if st = 0 then .rdIdle ch v k e p q
  else if st = 1 then
    if e then .asTmo ch v k p q
    else if !v then .asWait ch k p q
    else if !p then .asMiss ch k q
    else if q then .asStart ch k
    else .asAdv ch k
  else if st = 2 then
    if e then .rbTmo ch v k p q
    else if !v then .rbWait ch k p q
    else if p then .rbOvf ch k q
    else if q then .rbEnd ch k
    else .rbApp ch k
  else if st = 3 then
    if e then .rtTmo ch v k p q
    else if !v then .rtWait ch k p q
    else if q then .rtLast ch k p
    else .rtApp ch k p
  else if st = 4 then
    if k then .cpDlv ch v e p q else .cpHold ch v e p q
  else if st = 5 then .rdRsv5 ch v k e p q
  else .rdRsv67 ch (st.getLsbD 0) v k e p q

/-- The GSEL rows of R84 by their fields. -/
def retargetRow (ch : Nat) (r g d h : Bool) : Instr :=
  if r then .pgReset ch g d h
  else if !g then .rtgNone ch d h
  else if d then (if h then .rtgDga ch else .rtgDgi ch)
  else (if h then .rtgA ch else .rtgI ch)

/-- The TSEL rows of R84 by their fields. -/
def tickRow (ch : Nat) (n h x : Bool) : Instr :=
  if !n then .tkDis ch h x
  else if !x then .tkWait ch h
  else if h then .tkFall ch
  else .tkRise ch

/-- The frame-reader operation of channel `ch` that an RSEL value selects (R83, R84). -/
def decodeRsel (ch : Nat) (w : BitVec 9) : Instr :=
  readerRow ch (w.getLsbD 8) (w.extractLsb' 5 3) (w.getLsbD 4) (w.getLsbD 3) (w.getLsbD 2)
    (w.getLsbD 1) (w.getLsbD 0)

/-- The retarget operation a GSEL value selects (R83, R84). -/
def decodeGsel (ch : Nat) (w : BitVec 4) : Instr :=
  retargetRow ch (w.getLsbD 3) (w.getLsbD 2) (w.getLsbD 1) (w.getLsbD 0)

/-- The tick operation a TSEL value selects (R83, R84). -/
def decodeTsel (ch : Nat) (w : BitVec 3) : Instr :=
  tickRow ch (w.getLsbD 2) (w.getLsbD 1) (w.getLsbD 0)

/-- The operation a selector word selects on channel `ch`: total, every value has exactly one row
(R83). -/
def decode (ch : Nat) : Selector → Instr
  | .rsel w => decodeRsel ch w
  | .gsel w => decodeGsel ch w
  | .tsel w => decodeTsel ch w

/-- A number read as a selector word of a format: rejected by name when it is too wide. -/
def Selector.ofNat (f : Format) (w : Nat) : Except DecodeError Selector :=
  if w < 2 ^ f.width then
    match f with
    | .rsel => .ok (.rsel (BitVec.ofNat 9 w))
    | .gsel => .ok (.gsel (BitVec.ofNat 4 w))
    | .tsel => .ok (.tsel (BitVec.ofNat 3 w))
  else .error (.tooWide f w)

/-- Which format a selector of `nbits` bits has: 9 bits (16 in whole bytes) is RSEL, 4 (8 in whole
bytes) GSEL, 3 TSEL. In whole bytes GSEL and TSEL are both 8 bits wide, and the value alone does
not tell them apart; the block never meets the question, since each unit assembles its own
selector. DESIGN CHOICE, safe: eight bits are read as GSEL (log entry 15). -/
def Format.ofWidth (nbits : Nat) : Except DecodeError Format :=
  if nbits = 9 ∨ nbits = 16 then .ok .rsel
  else if nbits = 4 ∨ nbits = 8 then .ok .gsel
  else if nbits = 3 then .ok .tsel
  else .error (.noSuchWidth nbits)

/-- Decoding of a number given with its width in bits. -/
def decodeNat (ch nbits w : Nat) : Except DecodeError Instr := do
  let f ← Format.ofWidth nbits
  let sel ← Selector.ofNat f w
  return decode ch sel

/-- The operation of channel 0 that a selector word, numbered as spec/opcode_table.json numbers its
bits, selects; `none` where `decodeNat` refuses. -/
def decodeTableWord (nbits w : Nat) : Option Instr :=
  match decodeNat 0 nbits w with
  | .ok i => some i
  | .error _ => none

/-- The selector word of an operation: its fixed bits from R84, its free bits from its fields. -/
def encode : Instr → Selector
  | .rdReset _ st v k e p q => .rsel (rselWord true st v k e p q)
  | .rdIdle _ v k e p q => .rsel (rselWord false 0 v k e p q)
  | .rdRsv5 _ v k e p q => .rsel (rselWord false 5 v k e p q)
  | .rdRsv67 _ s0 v k e p q => .rsel (rselWord false (if s0 then 7 else 6) v k e p q)
  | .asWait _ k p q => .rsel (rselWord false 1 false k false p q)
  | .asAdv _ k => .rsel (rselWord false 1 true k false true false)
  | .asStart _ k => .rsel (rselWord false 1 true k false true true)
  | .asMiss _ k q => .rsel (rselWord false 1 true k false false q)
  | .asTmo _ v k p q => .rsel (rselWord false 1 v k true p q)
  | .rbWait _ k p q => .rsel (rselWord false 2 false k false p q)
  | .rbOvf _ k q => .rsel (rselWord false 2 true k false true q)
  | .rbApp _ k => .rsel (rselWord false 2 true k false false false)
  | .rbEnd _ k => .rsel (rselWord false 2 true k false false true)
  | .rbTmo _ v k p q => .rsel (rselWord false 2 v k true p q)
  | .rtWait _ k p q => .rsel (rselWord false 3 false k false p q)
  | .rtApp _ k p => .rsel (rselWord false 3 true k false p false)
  | .rtLast _ k p => .rsel (rselWord false 3 true k false p true)
  | .rtTmo _ v k p q => .rsel (rselWord false 3 v k true p q)
  | .cpHold _ v e p q => .rsel (rselWord false 4 v false e p q)
  | .cpDlv _ v e p q => .rsel (rselWord false 4 v true e p q)
  | .pgReset _ g d h => .gsel (gselWord true g d h)
  | .rtgNone _ d h => .gsel (gselWord false false d h)
  | .rtgI _ => .gsel (gselWord false true false false)
  | .rtgA _ => .gsel (gselWord false true false true)
  | .rtgDgi _ => .gsel (gselWord false true true false)
  | .rtgDga _ => .gsel (gselWord false true true true)
  | .tkDis _ h x => .tsel (tselWord false h x)
  | .tkWait _ h => .tsel (tselWord true h false)
  | .tkRise _ => .tsel (tselWord true false true)
  | .tkFall _ => .tsel (tselWord true true true)

/-- A row of the opcode map: a format, and the match and mask over its bits (R83, R84). -/
structure OpcodeRow where
  mnemonic : String
  format : Format
  mtch : Nat
  mask : Nat
  deriving DecidableEq, Repr

/-- The RSEL rows of R84. -/
def rselRows : List OpcodeRow :=
  [⟨"RD.RESET", .rsel, 0x100, 0x100⟩, ⟨"RD.IDLE", .rsel, 0x000, 0x1E0⟩,
   ⟨"RD.RSV5", .rsel, 0x0A0, 0x1E0⟩, ⟨"RD.RSV67", .rsel, 0x0C0, 0x1C0⟩,
   ⟨"AS.WAIT", .rsel, 0x020, 0x1F4⟩, ⟨"AS.ADV", .rsel, 0x032, 0x1F7⟩,
   ⟨"AS.START", .rsel, 0x033, 0x1F7⟩, ⟨"AS.MISS", .rsel, 0x030, 0x1F6⟩,
   ⟨"AS.TMO", .rsel, 0x024, 0x1E4⟩, ⟨"RB.WAIT", .rsel, 0x040, 0x1F4⟩,
   ⟨"RB.OVF", .rsel, 0x052, 0x1F6⟩, ⟨"RB.APP", .rsel, 0x050, 0x1F7⟩,
   ⟨"RB.END", .rsel, 0x051, 0x1F7⟩, ⟨"RB.TMO", .rsel, 0x044, 0x1E4⟩,
   ⟨"RT.WAIT", .rsel, 0x060, 0x1F4⟩, ⟨"RT.APP", .rsel, 0x070, 0x1F5⟩,
   ⟨"RT.LAST", .rsel, 0x071, 0x1F5⟩, ⟨"RT.TMO", .rsel, 0x064, 0x1E4⟩,
   ⟨"CP.HOLD", .rsel, 0x080, 0x1E8⟩, ⟨"CP.DLV", .rsel, 0x088, 0x1E8⟩]

/-- The GSEL rows of R84. -/
def gselRows : List OpcodeRow :=
  [⟨"PG.RESET", .gsel, 0x8, 0x8⟩, ⟨"RTG.NONE", .gsel, 0x0, 0xC⟩, ⟨"RTG.I", .gsel, 0x4, 0xF⟩,
   ⟨"RTG.A", .gsel, 0x5, 0xF⟩, ⟨"RTG.DGI", .gsel, 0x6, 0xF⟩, ⟨"RTG.DGA", .gsel, 0x7, 0xF⟩]

/-- The TSEL rows of R84. -/
def tselRows : List OpcodeRow :=
  [⟨"TK.DIS", .tsel, 0x0, 0x4⟩, ⟨"TK.WAIT", .tsel, 0x4, 0x5⟩, ⟨"TK.RISE", .tsel, 0x5, 0x7⟩,
   ⟨"TK.FALL", .tsel, 0x7, 0x7⟩]

/-- The rows of R84 of one format. -/
def Format.rows : Format → List OpcodeRow
  | .rsel => rselRows
  | .gsel => gselRows
  | .tsel => tselRows

/-- The row matches the value: `w & mask = match` (R83). -/
def OpcodeRow.covers (r : OpcodeRow) (w : Nat) : Bool := w &&& r.mask == r.mtch

/-- The format of a selector word. -/
def Selector.format : Selector → Format
  | .rsel _ => .rsel
  | .gsel _ => .gsel
  | .tsel _ => .tsel

/-- The value of a selector word as a number. -/
def Selector.toNat : Selector → Nat
  | .rsel w => w.toNat
  | .gsel w => w.toNat
  | .tsel w => w.toNat

/-- The row of R84 an operation belongs to. -/
def Instr.row : Instr → OpcodeRow
  | .rdReset _ _ _ _ _ _ _ => ⟨"RD.RESET", .rsel, 0x100, 0x100⟩
  | .rdIdle _ _ _ _ _ _ => ⟨"RD.IDLE", .rsel, 0x000, 0x1E0⟩
  | .rdRsv5 _ _ _ _ _ _ => ⟨"RD.RSV5", .rsel, 0x0A0, 0x1E0⟩
  | .rdRsv67 _ _ _ _ _ _ _ => ⟨"RD.RSV67", .rsel, 0x0C0, 0x1C0⟩
  | .asWait _ _ _ _ => ⟨"AS.WAIT", .rsel, 0x020, 0x1F4⟩
  | .asAdv _ _ => ⟨"AS.ADV", .rsel, 0x032, 0x1F7⟩
  | .asStart _ _ => ⟨"AS.START", .rsel, 0x033, 0x1F7⟩
  | .asMiss _ _ _ => ⟨"AS.MISS", .rsel, 0x030, 0x1F6⟩
  | .asTmo _ _ _ _ _ => ⟨"AS.TMO", .rsel, 0x024, 0x1E4⟩
  | .rbWait _ _ _ _ => ⟨"RB.WAIT", .rsel, 0x040, 0x1F4⟩
  | .rbOvf _ _ _ => ⟨"RB.OVF", .rsel, 0x052, 0x1F6⟩
  | .rbApp _ _ => ⟨"RB.APP", .rsel, 0x050, 0x1F7⟩
  | .rbEnd _ _ => ⟨"RB.END", .rsel, 0x051, 0x1F7⟩
  | .rbTmo _ _ _ _ _ => ⟨"RB.TMO", .rsel, 0x044, 0x1E4⟩
  | .rtWait _ _ _ _ => ⟨"RT.WAIT", .rsel, 0x060, 0x1F4⟩
  | .rtApp _ _ _ => ⟨"RT.APP", .rsel, 0x070, 0x1F5⟩
  | .rtLast _ _ _ => ⟨"RT.LAST", .rsel, 0x071, 0x1F5⟩
  | .rtTmo _ _ _ _ _ => ⟨"RT.TMO", .rsel, 0x064, 0x1E4⟩
  | .cpHold _ _ _ _ _ => ⟨"CP.HOLD", .rsel, 0x080, 0x1E8⟩
  | .cpDlv _ _ _ _ _ => ⟨"CP.DLV", .rsel, 0x088, 0x1E8⟩
  | .pgReset _ _ _ _ => ⟨"PG.RESET", .gsel, 0x8, 0x8⟩
  | .rtgNone _ _ _ => ⟨"RTG.NONE", .gsel, 0x0, 0xC⟩
  | .rtgI _ => ⟨"RTG.I", .gsel, 0x4, 0xF⟩
  | .rtgA _ => ⟨"RTG.A", .gsel, 0x5, 0xF⟩
  | .rtgDgi _ => ⟨"RTG.DGI", .gsel, 0x6, 0xF⟩
  | .rtgDga _ => ⟨"RTG.DGA", .gsel, 0x7, 0xF⟩
  | .tkDis _ _ _ => ⟨"TK.DIS", .tsel, 0x0, 0x4⟩
  | .tkWait _ _ => ⟨"TK.WAIT", .tsel, 0x4, 0x5⟩
  | .tkRise _ => ⟨"TK.RISE", .tsel, 0x5, 0x7⟩
  | .tkFall _ => ⟨"TK.FALL", .tsel, 0x7, 0x7⟩

/-- The mnemonic of an operation, as spec/opcode_table.json spells it. -/
def Instr.mnemonic (i : Instr) : String := i.row.mnemonic

end Sys2Proof
end

