-- ==== Sys2Proof/Machine/Ports.lean ====
section
/-! DEFINITION. The input ports of the block, sampled once per clock cycle (10_state.md R23, R26).
`clk` is the step itself (00_scope.md R5). -/

namespace Sys2Proof.Machine

/-- The inputs of one channel in one cycle (R26). -/
structure ChanIn where
  /-- `rx_valid`: a byte is available on `rx_data`. -/
  rxValid : Bool
  /-- `rx_data`: the next byte of the stream. -/
  rxData : Byte
  /-- `frame_ack`: the consumer has taken the frame held in Complete. -/
  frameAck : Bool
  /-- `rd_addr`: the offset the consumer reads from the frame buffer. -/
  rdAddr : BitVec 16
  /-- `rt_valid`: a power reading is presented on `rt_power`. -/
  rtValid : Bool
  /-- `rt_power`: the reading in watts, read as `sext_32`. -/
  rtPower : BitVec 32
  deriving DecidableEq, Repr, Inhabited

/-- Every input of a channel is 0 (30_encoding.md R86, a cycle with no line). -/
def ChanIn.idle : ChanIn :=
  { rxValid := false, rxData := 0, frameAck := false, rdAddr := 0, rtValid := false, rtPower := 0 }

/-- The inputs of one clock cycle: the block-wide ones (R23) and, by channel index, each channel's
(R26). A channel past the end of the list has every input 0 (log entry 20). -/
structure CycleIn where
  /-- `rst`: synchronous reset, active high. -/
  rst : Bool
  /-- `now_ms`: the millisecond time base. -/
  nowMs : Time
  /-- The inputs of channel 0, 1, ... -/
  chans : List ChanIn
  deriving DecidableEq, Repr, Inhabited

end Sys2Proof.Machine
end

