-- ==== Sys2Proof/Config.lean ====
section
/-! DEFINITION. What the builder of the block fixes for one channel (00_scope.md R7, 10_state.md
R33), and the free values: constants with no body, so that a statement about one holds whatever
it is. The legal ranges (R6 to R8) are `ChannelConfig.legal` and `State.legal` in Machine/Ops.lean. -/

namespace Sys2Proof

namespace Machine

/-- The configuration "registers" CFG0 to CFG5 of a channel (R7, R33). They are natural numbers, so
that a value that does not fit its width can be written down and refused (R8). -/
structure ChannelConfig where
  /-- CFG0 `CH_ID`, 8 bits: the identifier carried on every event. -/
  chId : Nat
  /-- CFG1 `BUF_CAP`, written `C`, 16 bits: the frame buffer's capacity in bytes. -/
  bufCap : Nat
  /-- CFG2 `TIMEOUT_S`, 16 bits: the read timeout in seconds. -/
  timeoutS : Nat
  /-- CFG3 `PPKWH`, written `K`, 32 bits: pulses per kWh. -/
  ppkwh : Nat
  /-- CFG4 `ACTIVE_MS`, written `A`, 16 bits: the width of a pulse in ms. -/
  activeMs : Nat
  /-- CFG5 `S0_EN`, 1 bit: the pulse output is enabled. -/
  s0En : Bool
  deriving DecidableEq, Repr

end Machine

namespace Config

/-- FREE VALUE: what a byte of channel `ch`'s buffer at offset `off` reads as before anything was
written there: "unspecified after reset (any value)" (20_memory.md R59, 70_reset_and_hazards.md
R234; log entry 7). No reachable operation reads one (R52). -/
opaque bufPowerOn (ch off : Nat) : Byte

/-- FREE VALUE: register `reg` of channel `ch` before the first reset: "every register of every channel
holds an unspecified value" (70_reset_and_hazards.md R233; log entry 21). Registers ST0 to ST4 are
numbers 0 to 4, PG0 to PG4 numbers 5 to 9, and the five strobes the model holds numbers 10 to 14; a narrower
register is the low bits. -/
opaque powerOn (ch reg : Nat) : BitVec 32

/-- FREE VALUE: output `port` of channel `ch` in step number `cycle`, before the first reset: "every
output is unspecified" (R233), any value (93_implementation_defined.md; log entry 21). The outputs
of 10_state.md R27 are numbered in its order, the strobes 6 to 10; a narrower output is the low
bits. -/
opaque powerOnOutput (ch cycle port : Nat) : BitVec 16

/-- FREE VALUE: what the end test of 30_encoding.md R77 reads `below` bytes below offset 0, which
happens only in a state with `st = ReadingBody` and `len < 4`, and 10_state.md R34 excludes it
(log entry 9). -/
opaque belowBuffer (ch below : Nat) : Byte

/-- FREE VALUE: `frame_len` of channel `ch` in step number `cycle` while `frame_valid = 0`
(10_state.md R29: "unspecified (any value)"; log entry 10). -/
opaque frameLen (ch cycle : Nat) : BitVec 16

/-- FREE VALUE: `frame_ch` while `frame_valid = 0` (R29; log entry 10). -/
opaque frameCh (ch cycle : Nat) : BitVec 8

/-- FREE VALUE: `rd_data` outside Complete or during reset (20_memory.md R55: "unspecified byte ...
(any value; a model draws it)"; log entry 10). -/
opaque rdData (ch cycle : Nat) : Byte

/-- FREE VALUE: the inputs the host supplies for the cycle of step number `cycle` when the script
says nothing more: "The host's inputs are free draws of each step" (00_scope.md R13; log
entry 3). -/
opaque hostInputs (cycle : Nat) : Machine.CycleIn

end Config

end Sys2Proof
end

