-- ==== Sys2Proof/Machine/State.lean ====
section
/-! DEFINITION. The state of the block (10_state.md R20, R24, R25, R33; 20_memory.md R50;
60_exceptions.md R200), why a step can stop (00_scope.md R14), and the state after reset. -/

namespace Sys2Proof.Machine

/-- FrameReaderState, register `st`: one constructor for each of its eight 3-bit codes, in code
order (30_encoding.md R72). `FR.Idle` and the reserved codes are never entered. -/
inductive FrState where
  | idle
  | awaitingStart
  | readingBody
  | readingTrailer
  | complete
  | reserved5
  | reserved6
  | reserved7
  deriving DecidableEq, Repr

/-- Register `phase`: 0 = PG.Idle, 1 = Active (30_encoding.md R73). -/
inductive Phase where
  | idle
  | active
  deriving DecidableEq, Repr

/-- The frame reader's registers ST0 to ST4 (10_state.md R24). -/
structure FrRegs where
  /-- ST0 `st`. -/
  st : FrState
  /-- ST1 `mp`: start-marker match position. -/
  mp : BitVec 3
  /-- ST2 `len`: logical length of the buffer. -/
  len : BitVec 16
  /-- ST3 `trl`: trailer bytes consumed. -/
  trl : BitVec 2
  /-- ST4 `t_ref`: time of the last state transition. -/
  tRef : Time
  deriving DecidableEq, Repr

/-- The pulse generator's registers PG0 to PG4 (10_state.md R25). -/
structure PgRegs where
  /-- PG0 `phase`. -/
  phase : Phase
  /-- PG1 `phase_start`. -/
  phaseStart : Time
  /-- PG2 `target`: the duration the current phase must reach. -/
  target : BitVec 32
  /-- PG3 `idle_ms`: the idle duration the next idle phase takes. -/
  idleMs : BitVec 32
  /-- PG4 `pulse_out`: the output level. -/
  pulseOut : Bool
  deriving DecidableEq, Repr

/-- The event strobes of the latest cycle (10_state.md R27, R36; 60_exceptions.md R200). -/
structure Strobes where
  /-- `evt_frame`. -/
  frame : Bool
  /-- `evt_timeout`. -/
  timeout : Bool
  /-- `evt_overflow`. -/
  overflow : Bool
  /-- `evt_retarget`. -/
  retarget : Bool
  /-- `evt_degenerate`. -/
  degenerate : Bool
  deriving DecidableEq, Repr

/-- Every strobe 0. -/
def Strobes.none : Strobes :=
  { frame := false, timeout := false, overflow := false, retarget := false, degenerate := false }

/-- One channel: its configuration, frame reader, frame buffer, pulse generator (10_state.md R20)
and strobes (R36). The buffer is a list of the bytes that have been written, in the canonical form
`Memory.wf`. -/
structure Channel where
  cfg : ChannelConfig
  fr : FrRegs
  buf : List Host.Cell
  pg : PgRegs
  strobes : Strobes
  deriving DecidableEq, Repr

/-- An event the block raises, with its `info` (60_exceptions.md R201). DecodeFailure (code 6) is the
host's and never in the block's history (42_channel.md R185). -/
inductive EventInfo where
  /-- Code 1: the length and a copy of the frame. -/
  | frameReady (len : BitVec 16) (bytes : List Byte)
  /-- Code 2: the `st` code the timeout left. -/
  | framingTimeout (state : BitVec 3)
  /-- Code 3: `len` when the append was refused. -/
  | bufferOverflow (len : BitVec 16)
  /-- Code 4: the reading, two's complement, and the new `idle_ms`. -/
  | retargeted (power idle : BitVec 32)
  /-- Code 5: the reading, two's complement. -/
  | degeneratePulseRate (power : BitVec 32)
  deriving DecidableEq, Repr

/-- A record of the event history: `(now, c, code, info)` of R200, the code being `EventInfo.code`;
both the channel index `c` (R200) and the identifier `CH_ID` carried on every event (R7, R201) are
kept (log entry 12). -/
structure EventRecord where
  now : Time
  ch : Nat
  chId : BitVec 8
  info : EventInfo
  deriving DecidableEq, Repr

/-- The state of the block (10_state.md R20), with the inputs its next step samples. -/
structure State where
  /-- `IDLE_DEFAULT_MS`, a block parameter (00_scope.md R6). -/
  idleDefaultMs : Nat
  /-- Channels `0 .. NUM_CH - 1` (60_exceptions.md R212); `NUM_CH` is the list's length. -/
  chans : List Channel
  /-- The event history, oldest first (60_exceptions.md R200). -/
  history : List EventRecord
  /-- The input ports as the next step samples them (R23, R26). -/
  inp : CycleIn
  /-- MODEL'S OWN: the inputs of the cycles after the next (log entry 3). -/
  script : List CycleIn
  /-- MODEL'S OWN: how many steps have been taken, the argument of the free draws (log
  entry 11). -/
  cycle : Nat
  /-- MODEL'S OWN: a cycle with `rst = 1` has been run, so that the outputs are no longer those of a
  block before its first reset (70_reset_and_hazards.md R233; log entry 21). -/
  wasReset : Bool
  deriving DecidableEq, Repr

/-- Why the machine stops with a fault: "No other fault exists" (00_scope.md R14). -/
inductive Fault where
  /-- `UnreachableState(CH_ID, st)`: raised by RD.IDLE, RD.RSV5 and RD.RSV67, a cycle with `rst = 0`
  and a state code that no rule enters (00_scope.md R14, 30_encoding.md R72). Safe: no reachable
  state raises it. -/
  | unreachableState (chId : BitVec 8) (st : BitVec 3)
  deriving DecidableEq, Repr

/-- Why the machine gives a step no meaning. -/
inductive Refusal where
  /-- No meaning written yet for the operation; raised by no arm of `exec` now. Safe. -/
  | notModelled (mnemonic : String)
  /-- The configuration breaks R6 or R7: "the model gives it no machine" (00_scope.md R8, R14);
  raised by `step`. Safe. -/
  | illegalConfig
  /-- An operation is addressed to a channel the block does not have (60_exceptions.md R212); raised
  by every meaning, never by `step`. Safe (log entry 18). -/
  | noSuchChannel (ch : Nat)
  deriving DecidableEq, Repr

/-- The reference configuration of 95_test_vectors.md and 92_eei_decisions.md D5. DESIGN CHOICE for
State.reset: the spec leaves every value to the builder (log entry 4). -/
def ChannelConfig.reference : ChannelConfig :=
  { chId := 0, bufCap := 64, timeoutS := 1, ppkwh := 1000, activeMs := 75, s0En := true }

/-- A channel after a reset cycle at `now_ms = now` (70_reset_and_hazards.md R230, R231, R235), its
buffer with nothing written. -/
def Channel.afterReset (cfg : ChannelConfig) (idleDefaultMs : Nat) (now : Time) : Channel :=
  { cfg := cfg
    fr := { st := .awaitingStart, mp := 0, len := 0, trl := 0, tRef := now }
    buf := []
    pg := { phase := .idle, phaseStart := now, target := BitVec.ofNat 32 idleDefaultMs,
            idleMs := BitVec.ofNat 32 idleDefaultMs, pulseOut := false }
    strobes := Strobes.none }

/-- The block right after a first reset cycle at `now_ms = 0` (R235, log entry 5): one channel of the
reference configuration (log entry 4), an empty history (log entry 13), and as inputs of the next
cycle the idle ones at `now_ms = 1` (log entry 6). -/
def State.reset : State :=
  { idleDefaultMs := 60000
    chans := [Channel.afterReset ChannelConfig.reference 60000 0]
    history := []
    inp := { rst := false, nowMs := 1, chans := [] }
    script := []
    cycle := 0
    wasReset := true }

end Sys2Proof.Machine
end

