-- ==== Sys2Proof/Machine/Ops.lean ====
section
/-! DEFINITION. The named operations of the block: constants, codes, legality, the frame buffer,
channel access, raising an event, and the procedures the operations share (ToAwait, ASByte, the
append, the timeout recovery). -/

namespace Sys2Proof.Machine

/-! ### Constants and codes -/

/-- `START`, the start marker (00_scope.md R6, 30_encoding.md R70). -/
def startMarker : List Byte := [0x1B, 0x1B, 0x1B, 0x1B, 0x01, 0x01, 0x01, 0x01]

/-- `END`, the end marker (R6, R70). -/
def endMarker : List Byte := [0x1B, 0x1B, 0x1B, 0x1B, 0x1A]

/-- `TRAILER_LEN` (R6, R71). -/
def trailerLen : Nat := 3

/-- `START[mp]` (R70). -/
def startByte (mp : BitVec 3) : Byte := if mp.toNat < 4 then 0x1B else 0x01

/-- The code of a frame-reader state (30_encoding.md R72). -/
def FrState.code : FrState → BitVec 3
  | .idle => 0
  | .awaitingStart => 1
  | .readingBody => 2
  | .readingTrailer => 3
  | .complete => 4
  | .reserved5 => 5
  | .reserved6 => 6
  | .reserved7 => 7

/-- The state a code stands for (R72). -/
def FrState.ofCode (c : BitVec 3) : FrState :=
  if c = 0 then .idle
  else if c = 1 then .awaitingStart
  else if c = 2 then .readingBody
  else if c = 3 then .readingTrailer
  else if c = 4 then .complete
  else if c = 5 then .reserved5
  else if c = 6 then .reserved6
  else .reserved7

/-- The code of a phase (30_encoding.md R73). -/
def Phase.code : Phase → Bool
  | .idle => false
  | .active => true

/-- The phase a code stands for (R73). -/
def Phase.ofCode (b : Bool) : Phase := if b then .active else .idle

/-- The code of an event the block raises (30_encoding.md R74): 1 to 5 only (60_exceptions.md R215). -/
def EventInfo.code : EventInfo → BitVec 3
  | .frameReady _ _ => 1
  | .framingTimeout _ => 2
  | .bufferOverflow _ => 3
  | .retargeted _ _ => 4
  | .degeneratePulseRate _ => 5

/-! ### Configuration -/

/-- The ranges of 00_scope.md R7. -/
def ChannelConfig.legal (cfg : ChannelConfig) : Bool :=
  decide (cfg.chId ≤ 255) && decide (16 ≤ cfg.bufCap) && decide (cfg.bufCap ≤ 65535) &&
    decide (cfg.timeoutS ≤ 65535) && decide (1 ≤ cfg.ppkwh) && decide (cfg.ppkwh ≤ 4294967295) &&
    decide (1 ≤ cfg.activeMs) && decide (cfg.activeMs ≤ 65535)

/-- `NUM_CH` (R6, 60_exceptions.md R212). -/
def State.numCh (s : State) : Nat := s.chans.length

/-- The configuration is within the ranges of R6 and R7; otherwise it is refused (R8). -/
def State.legal (s : State) : Bool :=
  decide (1 ≤ s.numCh) && decide (s.numCh ≤ 256) && decide (1 ≤ s.idleDefaultMs) &&
    decide (s.idleDefaultMs ≤ 4294967295) && s.chans.all fun c => c.cfg.legal

/-- `T_MS = TIMEOUT_S * 1000` (R7). -/
def ChannelConfig.timeoutMs (cfg : ChannelConfig) : Nat := cfg.timeoutS * 1000

/-- `CH_ID` at its width of 8 bits (R7). -/
def Channel.chId (c : Channel) : BitVec 8 := BitVec.ofNat 8 c.cfg.chId

/-! ### Outcomes -/

/-- The outcome of a computation of the block (R14). -/
abbrev Result (α : Type) := Host.Outcome α Fault Refusal

/-- Go on with `k` if the first outcome is a next state; a fault or a refusal stands. -/
def chain {α β : Type} (x : Result α) (k : α → Result β) : Result β :=
  match x with
  | .next a => k a
  | .fault f => .fault f
  | .refused r => .refused r

/-! ### The frame buffer (20_memory.md R50 to R53) -/

/-- The byte listed at an offset, if one was written there. -/
def Memory.read? (m : List Host.Cell) (a : Nat) : Option Byte :=
  match m with
  | [] => none
  | x :: rest => if a = x.1 then some x.2 else Memory.read? rest a

/-- The list with byte `b` at offset `a`, addresses kept strictly rising. -/
def Memory.write (m : List Host.Cell) (a : Nat) (b : Byte) : List Host.Cell :=
  match m with
  | [] => [(a, b)]
  | x :: rest =>
    if a < x.1 then (a, b) :: x :: rest
    else if a = x.1 then (a, b) :: rest
    else x :: Memory.write rest a b

/-- Bytes written at rising offsets from `a` on (R54: arrival order). -/
def Memory.writeList (m : List Host.Cell) (a : Nat) (bs : List Byte) : List Host.Cell :=
  match bs with
  | [] => m
  | b :: rest => Memory.writeList (Memory.write m a b) (a + 1) rest

/-- The canonical form of a buffer: addresses strictly rising. An unlisted address has no value, so
no listed byte can equal what an unlisted address reads as. -/
abbrev Memory.wf (m : List Host.Cell) : Prop := m.Pairwise fun x y => x.1 < y.1

/-- `MemRead(off, 1)` (R52): the byte most recently written, or, where none was, an unspecified byte
(R59, a free value: log entry 7). -/
def memRead (ch : Nat) (c : Channel) (off : Nat) : Byte :=
  (Memory.read? c.buf off).getD (Config.bufPowerOn ch off)

/-- `MemWrite` of consecutive bytes from `off` on (R53, R57). "No operation writes at an offset `>= C`"
(R66): a byte that would fall there, which only a state outside 10_state.md R34 offers, is not
written, and the operation goes on (00_scope.md R14 knows no fault for it; log entry 8). -/
def memWrite (c : Channel) (off : Nat) (bs : List Byte) : Channel :=
  { c with buf := Memory.writeList c.buf off (bs.take (c.cfg.bufCap - off)) }

/-- `buf[0 ..< len]`, the frame's bytes (R58, 60_exceptions.md R201). -/
def frameBytes (ch : Nat) (c : Channel) : List Byte :=
  (List.range c.fr.len.toNat).map (memRead ch c)

/-! ### Channels of the block -/

/-- The inputs of channel `ch` in this cycle (R26); 0 where the list says nothing (log entry 20). -/
def State.chanIn (s : State) (ch : Nat) : ChanIn := s.inp.chans.getD ch ChanIn.idle

/-- `now`: the value of `now_ms` sampled in this cycle (00_scope.md R12). -/
def State.now (s : State) : Time := s.inp.nowMs

/-- Run an operation on channel `ch` and its inputs; a channel that does not exist is refused
(60_exceptions.md R212; log entry 18). -/
def onChannel (ch : Nat) (s : State) (k : Channel → ChanIn → Result State) : Result State :=
  match s.chans[ch]? with
  | some c => k c (s.chanIn ch)
  | none => .refused (.noSuchChannel ch)

/-- Channel `ch` takes the value `c`. -/
def State.setChannel (s : State) (ch : Nat) (c : Channel) : State :=
  { s with chans := s.chans.set ch c }

/-- The strobe of an event is asserted (60_exceptions.md R200). -/
def Strobes.assert (e : EventInfo) (b : Strobes) : Strobes :=
  match e with
  | .frameReady _ _ => { b with frame := true }
  | .framingTimeout _ => { b with timeout := true }
  | .bufferOverflow _ => { b with overflow := true }
  | .retargeted _ _ => { b with retarget := true }
  | .degeneratePulseRate _ => { b with degenerate := true }

/-- `raise E(info)` (00_scope.md R12, 60_exceptions.md R200) together with channel `ch` taking the
value `c`: the event's strobe is asserted for this cycle and its record appended to the
history. -/
def State.raise (s : State) (ch : Nat) (c : Channel) (e : EventInfo) : State :=
  { s with
    chans := s.chans.set ch { c with strobes := c.strobes.assert e }
    history := s.history ++ [{ now := s.now, ch := ch, chId := c.chId, info := e }] }

/-! ### Procedures of the frame reader -/

/-- `ToAwait(now)` (40_frame_reader.md R122): the return to AwaitingStart; the buffer stays. It is
also what RD.RESET writes (70_reset_and_hazards.md R230). -/
def Channel.toAwait (c : Channel) (now : Time) : Channel :=
  { c with fr := { st := .awaitingStart, mp := 0, len := 0, trl := 0, tRef := now } }

/-- ASByte, the match goes on: `mp <- mp + 1` (R124, R106); at its width, where no state selects it (log
entry 17). -/
def Channel.advanceMatch (c : Channel) : Channel :=
  { c with fr := { c.fr with mp := c.fr.mp + 1 } }

/-- ASByte, the naive restart: `mp <- (b = START[0]) ? 1 : 0` (R124, R108). -/
def Channel.missMatch (c : Channel) (b : Byte) : Channel :=
  { c with fr := { c.fr with mp := if b = startByte 0 then 1 else 0 } }

/-- ASByte, the start marker is complete: it is written to offsets 0 to 7 and the body begins (R124,
R107). -/
def Channel.startFrame (c : Channel) (now : Time) : Channel :=
  { memWrite c 0 startMarker with
    fr := { st := .readingBody, mp := 0, len := 8, trl := 0, tRef := now } }

/-- `ASByte(b)` (R124): the AwaitingStart treatment of one consumed byte. -/
def Channel.asByte (c : Channel) (now : Time) (b : Byte) : Channel :=
  if b = startByte c.fr.mp then
    if c.fr.mp = 7 then c.startFrame now else c.advanceMatch
  else c.missMatch b

/-- `MemWrite(len, 1, b)`, `len <- len + 1` (R112, R113, R116, R117). DESIGN CHOICE (log entries 17 and 25): R11
says that the sum fits; at `len = 0xFFFF`, outside R34, it wraps to 0. -/
def Channel.append (c : Channel) (b : Byte) : Channel :=
  { memWrite c c.fr.len.toNat [b] with fr := { c.fr with len := c.fr.len + 1 } }

/-- Recovery from FramingTimeout, the block's one form of taking an exception that goes on with the
cycle's byte (60_exceptions.md R203; 40_frame_reader.md R109, R114, R118): raise the event with the
code of the state the timeout left, ToAwait, then ASByte of a presented byte. -/
def takeTimeout (left : FrState) (ch : Nat) (s : State) : Result State :=
  onChannel ch s fun c i =>
    let c' := c.toAwait s.now
    .next (s.raise ch (if i.rxValid then c'.asByte s.now i.rxData else c')
      (.framingTimeout left.code))

/-- Recovery from BufferOverflow (60_exceptions.md R203; 40_frame_reader.md R111): raise the event
with `len`, then ToAwait; the byte is consumed and discarded. -/
def takeOverflow (ch : Nat) (s : State) : Result State :=
  onChannel ch s fun c _ =>
    .next (s.raise ch (c.toAwait s.now) (.bufferOverflow c.fr.len))

/-! ### Power-on -/

/-- A channel at power-on (70_reset_and_hazards.md R233): an unspecified value in every register and
strobe, nothing written to the buffer (R234), no cycle run. -/
def Channel.powerOn (ch : Nat) (cfg : ChannelConfig) : Channel :=
  { cfg := cfg
    fr := { st := FrState.ofCode ((Config.powerOn ch 0).setWidth 3)
            mp := (Config.powerOn ch 1).setWidth 3
            len := (Config.powerOn ch 2).setWidth 16
            trl := (Config.powerOn ch 3).setWidth 2
            tRef := Config.powerOn ch 4 }
    buf := []
    pg := { phase := Phase.ofCode ((Config.powerOn ch 5).getLsbD 0)
            phaseStart := Config.powerOn ch 6
            target := Config.powerOn ch 7
            idleMs := Config.powerOn ch 8
            pulseOut := (Config.powerOn ch 9).getLsbD 0 }
    strobes :=
      { frame := (Config.powerOn ch 10).getLsbD 0
        timeout := (Config.powerOn ch 11).getLsbD 0
        overflow := (Config.powerOn ch 12).getLsbD 0
        retarget := (Config.powerOn ch 13).getLsbD 0
        degenerate := (Config.powerOn ch 14).getLsbD 0 } }

/-- The block at power-on, built with these parameters, before a first cycle with inputs `first` (R233,
R236). -/
def State.powerOn (idleDefaultMs : Nat) (cfgs : List ChannelConfig) (first : CycleIn)
    (script : List CycleIn) : State :=
  { idleDefaultMs := idleDefaultMs
    chans := cfgs.mapIdx Channel.powerOn
    history := []
    inp := first
    script := script
    cycle := 0
    wasReset := false }

/-! ### Shared by the operations -/

/-- An operation that changes nothing of its channel (AS.WAIT, RB.WAIT, RT.WAIT, CP.HOLD, RTG.NONE,
TK.WAIT). -/
def holdChannel (ch : Nat) (s : State) : Result State :=
  onChannel ch s fun _ _ => .next s

/-- `fault UnreachableState(CH_ID, code)` (00_scope.md R14; 40_frame_reader.md R102 to R104). -/
def unreachable (ch : Nat) (code : Channel → BitVec 3) (s : State) : Result State :=
  onChannel ch s fun c _ => .fault (.unreachableState c.chId (code c))

end Sys2Proof.Machine
end

