-- ==== Sys2Proof/Machine/Operands.lean ====
section
/-! DEFINITION. The operands an operation is selected by: the condition signals (30_encoding.md R77,
R78), the idle-duration function (41_pulse_generator.md R151), and the three selector words as
state and inputs assemble them (R80 to R82), with the operation each selects (R83). -/

namespace Sys2Proof.Machine

/-! ### Condition signals of the frame reader (R77) -/

/-- `sub_CLK_W(now, t)` (00_scope.md R11): the unsigned modular difference. -/
def elapsed (now t : Time) : Nat := (now - t).toNat

/-- The states the timeout is evaluated in (40_frame_reader.md R121). -/
def FrState.timed : FrState → Bool
  | .awaitingStart => true
  | .readingBody => true
  | .readingTrailer => true
  | _ => false

/-- `exp = (st in {1,2,3}) and (sub_CLK_W(now, t_ref) > T_MS)` (R77, R121). -/
def Channel.exp (c : Channel) (now : Time) : Bool :=
  c.fr.st.timed && decide (elapsed now c.fr.tRef > c.cfg.timeoutMs)

/-- The byte `k` places before offset `len`; below offset 0 there is none (log entry 9). -/
def Channel.byteBack (ch : Nat) (c : Channel) (k : Nat) : Byte :=
  if k ≤ c.fr.len.toNat then memRead ch c (c.fr.len.toNat - k)
  else Config.belowBuffer ch (k - c.fr.len.toNat)

/-- The end test: the bytes the append of `b` would leave last equal `END` (R77, R113). -/
def Channel.endTest (ch : Nat) (c : Channel) (b : Byte) : Bool :=
  [c.byteBack ch 4, c.byteBack ch 3, c.byteBack ch 2, c.byteBack ch 1, b] == endMarker

/-- `c1` (R77). -/
def Channel.c1 (c : Channel) (b : Byte) : Bool :=
  match c.fr.st with
  | .awaitingStart => decide (b = startByte c.fr.mp)
  | .readingBody => decide (c.fr.len.toNat + 1 + trailerLen > c.cfg.bufCap)
  | _ => false

/-- `c0` (R77). -/
def Channel.c0 (ch : Nat) (c : Channel) (b : Byte) : Bool :=
  match c.fr.st with
  | .awaitingStart => decide (c.fr.mp = 7)
  | .readingBody => c.endTest ch b
  | .readingTrailer => decide (c.fr.trl = 2)
  | _ => false

/-! ### The pulse generator's arithmetic and condition signals (R151, R78) -/

/-- A reading as a signed number of watts: `sext_32(rt_power)` (00_scope.md R11). -/
def watts (power : BitVec 32) : Int := power.toInt

/-- `P * K <= 1000`: the reading is degenerate (R151, R78). -/
def degenerate (cfg : ChannelConfig) (power : BitVec 32) : Bool :=
  decide (watts power * (cfg.ppkwh : Int) ≤ 1000)

/-- `IdleFor(P)` (R151) over the mathematical integers: the new idle duration in ms, and whether the
reading is degenerate. -/
def idleFor (idleDefaultMs : Nat) (cfg : ChannelConfig) (power : BitVec 32) : Nat × Bool :=
  let pk : Int := watts power * (cfg.ppkwh : Int)
  if pk ≤ 1000 then (idleDefaultMs, true)
  else
    let num : Int := 3600000000 - pk * (cfg.activeMs : Int)
    let den : Int := pk - 1000
    if num ≤ 0 then (0, false) else ((num / den).toNat, false)

/-- `dg = rt_valid and (P * K <= 1000)` (R78). -/
def Channel.dg (c : Channel) (i : ChanIn) : Bool := i.rtValid && degenerate c.cfg i.rtPower

/-- `exp_p = sub_CLK_W(now, phase_start) >= target` (R78), on the registers the tick stage sees. -/
def Channel.expP (c : Channel) (now : Time) : Bool :=
  decide (elapsed now c.pg.phaseStart ≥ c.pg.target.toNat)

/-! ### Selector words (R80 to R82) -/

/-- The RSEL of a channel in this cycle (R80). -/
def Channel.rsel (ch : Nat) (c : Channel) (rst : Bool) (now : Time) (i : ChanIn) : BitVec 9 :=
  rselWord rst c.fr.st.code i.rxValid i.frameAck (c.exp now) (c.c1 i.rxData) (c.c0 ch i.rxData)

/-- The GSEL of a channel in this cycle (R81). -/
def Channel.gsel (c : Channel) (rst : Bool) (i : ChanIn) : BitVec 4 :=
  gselWord rst i.rtValid (c.dg i) c.pg.phase.code

/-- The TSEL of a channel in this cycle, on the registers the retarget stage left (R82). -/
def Channel.tsel (c : Channel) (now : Time) : BitVec 3 :=
  tselWord c.cfg.s0En c.pg.phase.code (c.expP now)

/-- The three stages of a channel's cycle, each of which selects one operation (42_channel.md
R180). -/
inductive Stage where
  | reader
  | retarget
  | tick
  deriving DecidableEq, Repr

/-- The operation a stage of channel `ch` selects in this cycle (R83, R100, R150); none if the block
has no such channel. -/
def State.selected (s : State) (g : Stage) (ch : Nat) : Option Instr :=
  match s.chans[ch]? with
  | none => none
  | some c =>
    match g with
    | .reader => some (decode ch (.rsel (c.rsel ch s.inp.rst s.now (s.chanIn ch))))
    | .retarget => some (decode ch (.gsel (c.gsel s.inp.rst (s.chanIn ch))))
    | .tick => some (decode ch (.tsel (c.tsel s.now)))

end Sys2Proof.Machine
end

