-- ==== Sys2Proof/Machine/Flags.lean ====
section
/-! DEFINITION. The outputs of the block (10_state.md R27 to R29, R36; 20_memory.md R55), and the mark of a
reader stuck on its host (70_reset_and_hazards.md R251). The level outputs are functions of the
registers, `rd_addr` and `rst` in the state a cycle starts from; the strobes are what the operations
of the cycle asserted, held in the state the cycle ends in. Before the first cycle with `rst = 1`
every output is unspecified (R233). -/

namespace Sys2Proof.Machine

/-- `rx_ready = (rst = 0) and (st in {AwaitingStart, ReadingBody, ReadingTrailer})` (R28). -/
def Channel.rxReady (c : Channel) (rst : Bool) : Bool :=
  !rst && match c.fr.st with
    | .awaitingStart => true
    | .readingBody => true
    | .readingTrailer => true
    | _ => false

/-- `frame_valid = (rst = 0) and (st = Complete)` (R29). -/
def Channel.frameValid (c : Channel) (rst : Bool) : Bool :=
  !rst && decide (c.fr.st = .complete)

/-- A byte is consumed exactly when `rx_valid = 1` and `rx_ready = 1` (R28). -/
def Channel.consumes (c : Channel) (rst : Bool) (i : ChanIn) : Bool :=
  i.rxValid && c.rxReady rst

/-- STUCK (host-dependent), not a fault (70_reset_and_hazards.md R251 item 1, 93_implementation_defined.md):
the reader holds a frame in Complete and this cycle brings neither `frame_ack` nor `rst`, so that it
makes no progress; only one of these two inputs releases it. -/
def Channel.stuck (c : Channel) (rst : Bool) (i : ChanIn) : Bool := c.frameValid rst && !i.frameAck

/-- `frame_len`: `len` while `frame_valid = 1`, otherwise unspecified (R29; log entry 10). -/
def Channel.frameLen (ch cycle : Nat) (c : Channel) (rst : Bool) : BitVec 16 :=
  if c.frameValid rst then c.fr.len else Config.frameLen ch cycle

/-- `frame_ch`: `CH_ID` while `frame_valid = 1`, otherwise unspecified (R29; log entry 10). -/
def Channel.frameCh (ch cycle : Nat) (c : Channel) (rst : Bool) : BitVec 8 :=
  if c.frameValid rst then c.chId else Config.frameCh ch cycle

/-- `rd_data` (R55): in Complete the byte at `rd_addr`, 0x00 at or past `len`; otherwise unspecified
(log entry 10). -/
def Channel.rdData (ch cycle : Nat) (c : Channel) (rst : Bool) (rdAddr : BitVec 16) : Byte :=
  if c.frameValid rst then
    if rdAddr.toNat < c.fr.len.toNat then memRead ch c rdAddr.toNat else 0x00
  else Config.rdData ch cycle

/-- The payload slice of a frame, `[offset 8 : length - 8]` (30_encoding.md R76, 42_channel.md R183): what the
host hands its decoder. The block itself performs no slicing. -/
def payloadSlice (frame : List Byte) : List Byte := (frame.drop 8).take (frame.length - 16)

/-- The outputs of a channel in one cycle (R27). -/
structure ChanOut where
  rxReady : Bool
  frameValid : Bool
  frameLen : BitVec 16
  frameCh : BitVec 8
  rdData : Byte
  pulseOut : Bool
  strobes : Strobes
  deriving DecidableEq, Repr

/-- The outputs of channel `ch` in step number `cycle` before the first reset: each a free draw (R233; log
entry 21). -/
def ChanOut.drawn (ch cycle : Nat) : ChanOut :=
  let bit (port : Nat) : Bool := (Config.powerOnOutput ch cycle port).getLsbD 0
  { rxReady := bit 0
    frameValid := bit 1
    frameLen := Config.powerOnOutput ch cycle 2
    frameCh := (Config.powerOnOutput ch cycle 3).setWidth 8
    rdData := (Config.powerOnOutput ch cycle 4).setWidth 8
    pulseOut := bit 5
    strobes := { frame := bit 6, timeout := bit 7, overflow := bit 8, retarget := bit 9,
                 degenerate := bit 10 } }

/-- The block has had a reset cycle, or is in one: its outputs are those the rules give (R233, R232). -/
def State.resetReached (s : State) : Bool := s.wasReset || s.inp.rst

/-- The outputs of channel `ch` in the cycle that `step` runs from `before` to `after` (R27): levels
from the state before the edge, strobes from the operations of the cycle; before the first reset,
draws. -/
def cycleOutputs (before after : State) (ch : Nat) : Option ChanOut :=
  match before.chans[ch]?, after.chans[ch]? with
  | some b, some a =>
    if before.resetReached then some
      { rxReady := b.rxReady before.inp.rst
        frameValid := b.frameValid before.inp.rst
        frameLen := b.frameLen ch before.cycle before.inp.rst
        frameCh := b.frameCh ch before.cycle before.inp.rst
        rdData := b.rdData ch before.cycle before.inp.rst (before.chanIn ch).rdAddr
        pulseOut := b.pg.pulseOut
        strobes := a.strobes }
    else some (ChanOut.drawn ch before.cycle)
  | _, _ => none

end Sys2Proof.Machine
end

