-- ==== Sys2Proof/Machine/FrameReader.lean ====
section
/-! DEFINITION. The meanings of the frame reader's operations: the RSEL rows of 30_encoding.md R84,
by 40_frame_reader.md R102 to R120 and 70_reset_and_hazards.md R230. Each acts on the registers of
channel `ch` as they stand and on this cycle's inputs of that channel (00_scope.md R12). -/

namespace Sys2Proof.Machine

/-! ### RD: reset and the codes no rule enters -/

/-- RD.RESET (70_reset_and_hazards.md R230): the registers of ToAwait, the buffer not written, no
event. -/
def execRdReset (ch : Nat) (s : State) : Host.Outcome State Fault Refusal :=
  onChannel ch s fun c _ => .next (s.setChannel ch (c.toAwait s.now))

/-- RD.IDLE (40_frame_reader.md R102): `fault UnreachableState(CH_ID, 0)`. -/
def execRdIdle (ch : Nat) (s : State) : Host.Outcome State Fault Refusal :=
  unreachable ch (fun _ => 0) s

/-- RD.RSV5 (R103): `fault UnreachableState(CH_ID, 5)`. -/
def execRdRsv5 (ch : Nat) (s : State) : Host.Outcome State Fault Refusal :=
  unreachable ch (fun _ => 5) s

/-- RD.RSV67 (R104): `fault UnreachableState(CH_ID, st)`. -/
def execRdRsv67 (ch : Nat) (s : State) : Host.Outcome State Fault Refusal :=
  unreachable ch (fun c => c.fr.st.code) s

/-! ### AS: AwaitingStart -/

/-- AS.WAIT (R105): nothing changes. -/
def execAsWait (ch : Nat) (s : State) : Host.Outcome State Fault Refusal :=
  holdChannel ch s

/-- AS.ADV (R106): `mp <- mp + 1`; the byte is consumed and not stored. -/
def execAsAdv (ch : Nat) (s : State) : Host.Outcome State Fault Refusal :=
  onChannel ch s fun c _ => .next (s.setChannel ch c.advanceMatch)

/-- AS.START (R107): `START` goes to offsets 0 to 7 and the body begins. -/
def execAsStart (ch : Nat) (s : State) : Host.Outcome State Fault Refusal :=
  onChannel ch s fun c _ => .next (s.setChannel ch (c.startFrame s.now))

/-- AS.MISS (R108): `mp <- (b = 0x1B) ? 1 : 0`. -/
def execAsMiss (ch : Nat) (s : State) : Host.Outcome State Fault Refusal :=
  onChannel ch s fun c i => .next (s.setChannel ch (c.missMatch i.rxData))

/-- AS.TMO (R109): FramingTimeout in AwaitingStart. -/
def execAsTmo (ch : Nat) (s : State) : Host.Outcome State Fault Refusal :=
  takeTimeout .awaitingStart ch s

/-! ### RB: ReadingBody -/

/-- RB.WAIT (R110): nothing changes. -/
def execRbWait (ch : Nat) (s : State) : Host.Outcome State Fault Refusal :=
  holdChannel ch s

/-- RB.OVF (R111): BufferOverflow, the byte discarded. -/
def execRbOvf (ch : Nat) (s : State) : Host.Outcome State Fault Refusal :=
  takeOverflow ch s

/-- RB.APP (R112): the byte is appended. -/
def execRbApp (ch : Nat) (s : State) : Host.Outcome State Fault Refusal :=
  onChannel ch s fun c i => .next (s.setChannel ch (c.append i.rxData))

/-- RB.END (R113): the byte is appended and the trailer begins. -/
def execRbEnd (ch : Nat) (s : State) : Host.Outcome State Fault Refusal :=
  onChannel ch s fun c i =>
    let c' := c.append i.rxData
    .next (s.setChannel ch
      { c' with fr := { c'.fr with st := .readingTrailer, trl := 0, tRef := s.now } })

/-- RB.TMO (R114): FramingTimeout in ReadingBody. -/
def execRbTmo (ch : Nat) (s : State) : Host.Outcome State Fault Refusal :=
  takeTimeout .readingBody ch s

/-! ### RT: ReadingTrailer -/

/-- RT.WAIT (R115): nothing changes. -/
def execRtWait (ch : Nat) (s : State) : Host.Outcome State Fault Refusal :=
  holdChannel ch s

/-- RT.APP (R116): a trailer byte that is not the last; `trl <- trl + 1`. DESIGN CHOICE (log entry 25): R11 says
that the result fits; where it does not, before the first reset only, `trl` wraps from 3 to 0 and `len`
from 0xFFFF to 0. -/
def execRtApp (ch : Nat) (s : State) : Host.Outcome State Fault Refusal :=
  onChannel ch s fun c i =>
    let c' := c.append i.rxData
    .next (s.setChannel ch { c' with fr := { c'.fr with trl := c'.fr.trl + 1 } })

/-- RT.LAST (R117): the third trailer byte; `trl <- 3`, the frame is Complete. DESIGN CHOICE (log entry 25): `len`
wraps from 0xFFFF to 0, before the first reset only. -/
def execRtLast (ch : Nat) (s : State) : Host.Outcome State Fault Refusal :=
  onChannel ch s fun c i =>
    let c' := c.append i.rxData
    .next (s.setChannel ch
      { c' with fr := { c'.fr with st := .complete, trl := 3, tRef := s.now } })

/-- RT.TMO (R118): FramingTimeout in ReadingTrailer. -/
def execRtTmo (ch : Nat) (s : State) : Host.Outcome State Fault Refusal :=
  takeTimeout .readingTrailer ch s

/-! ### CP: Complete -/

/-- CP.HOLD (R119): the frame is held; nothing changes. The reader is then stuck on the host, not faulted
(`Channel.stuck`, 70_reset_and_hazards.md R251). -/
def execCpHold (ch : Nat) (s : State) : Host.Outcome State Fault Refusal :=
  holdChannel ch s

/-- CP.DLV (R120): FrameReady with the length and a copy of the frame, then ToAwait. -/
def execCpDlv (ch : Nat) (s : State) : Host.Outcome State Fault Refusal :=
  onChannel ch s fun c _ =>
    .next (s.raise ch (c.toAwait s.now) (.frameReady c.fr.len (frameBytes ch c)))

end Sys2Proof.Machine
end

