-- ==== Sys2Proof/Machine/PulseGenerator.lean ====
section
/-! DEFINITION. The meanings of the pulse generator's operations: the GSEL and TSEL rows of
30_encoding.md R84, by 41_pulse_generator.md R152 to R160 and 70_reset_and_hazards.md R231. -/

namespace Sys2Proof.Machine

/-! ### Shared by the retarget operations -/

/-- A new idle duration in PG.Idle: `idle_ms <- v`, `target <- v` (R152, R154). -/
def Channel.retargetIdle (c : Channel) (v : Nat) : Channel :=
  { c with pg := { c.pg with idleMs := BitVec.ofNat 32 v, target := BitVec.ofNat 32 v } }

/-- A new idle duration in Active: `idle_ms <- v`, `target` not written (R153, R155). -/
def Channel.retargetActive (c : Channel) (v : Nat) : Channel :=
  { c with pg := { c.pg with idleMs := BitVec.ofNat 32 v } }

/-! ### PG: reset -/

/-- PG.RESET (70_reset_and_hazards.md R231). -/
def execPgReset (ch : Nat) (s : State) : Host.Outcome State Fault Refusal :=
  onChannel ch s fun c _ =>
    .next (s.setChannel ch
      { c with
        pg := { phase := .idle
                phaseStart := s.now
                target := BitVec.ofNat 32 s.idleDefaultMs
                idleMs := BitVec.ofNat 32 s.idleDefaultMs
                pulseOut := false } })

/-! ### RTG: retarget -/

/-- RTG.NONE (R160): no reading, nothing changes. -/
def execRtgNone (ch : Nat) (s : State) : Host.Outcome State Fault Refusal :=
  holdChannel ch s

/-- RTG.I (R152): a non-degenerate reading in PG.Idle. -/
def execRtgI (ch : Nat) (s : State) : Host.Outcome State Fault Refusal :=
  onChannel ch s fun c i =>
    let v := (idleFor s.idleDefaultMs c.cfg i.rtPower).1
    .next (s.raise ch (c.retargetIdle v) (.retargeted i.rtPower (BitVec.ofNat 32 v)))

/-- RTG.A (R153): a non-degenerate reading in Active; the running pulse keeps its width. -/
def execRtgA (ch : Nat) (s : State) : Host.Outcome State Fault Refusal :=
  onChannel ch s fun c i =>
    let v := (idleFor s.idleDefaultMs c.cfg i.rtPower).1
    .next (s.raise ch (c.retargetActive v) (.retargeted i.rtPower (BitVec.ofNat 32 v)))

/-- RTG.DGI (R154): a degenerate reading in PG.Idle. -/
def execRtgDgi (ch : Nat) (s : State) : Host.Outcome State Fault Refusal :=
  onChannel ch s fun c i =>
    .next (s.raise ch (c.retargetIdle s.idleDefaultMs) (.degeneratePulseRate i.rtPower))

/-- RTG.DGA (R155): a degenerate reading in Active. -/
def execRtgDga (ch : Nat) (s : State) : Host.Outcome State Fault Refusal :=
  onChannel ch s fun c i =>
    .next (s.raise ch (c.retargetActive s.idleDefaultMs) (.degeneratePulseRate i.rtPower))

/-! ### TK: tick -/

/-- TK.DIS (R156): `pulse_out <- 0`, nothing else. -/
def execTkDis (ch : Nat) (s : State) : Host.Outcome State Fault Refusal :=
  onChannel ch s fun c _ =>
    .next (s.setChannel ch { c with pg := { c.pg with pulseOut := false } })

/-- TK.WAIT (R157): nothing changes. -/
def execTkWait (ch : Nat) (s : State) : Host.Outcome State Fault Refusal :=
  holdChannel ch s

/-- TK.RISE (R158): the pulse starts; `target <- A`. -/
def execTkRise (ch : Nat) (s : State) : Host.Outcome State Fault Refusal :=
  onChannel ch s fun c _ =>
    .next (s.setChannel ch
      { c with
        pg := { c.pg with phase := .active, pulseOut := true, phaseStart := s.now,
                          target := BitVec.ofNat 32 c.cfg.activeMs } })

/-- TK.FALL (R159): the pulse ends; `target <- idle_ms`. -/
def execTkFall (ch : Nat) (s : State) : Host.Outcome State Fault Refusal :=
  onChannel ch s fun c _ =>
    .next (s.setChannel ch
      { c with
        pg := { c.pg with phase := .idle, pulseOut := false, phaseStart := s.now,
                          target := c.pg.idleMs } })

end Sys2Proof.Machine
end

