-- ==== Sys2Proof/Machine/Dispatch.lean ====
section
/-! DEFINITION. One operation of one channel: the dispatch over the rows of the opcode table. The free
selector bits of an operation take no part in its meaning: an operation reads the registers and
ports themselves (40_frame_reader.md and 41_pulse_generator.md, "Operands"). -/

namespace Sys2Proof.Machine

def exec (i : Instr) (s : State) : Host.Outcome State Fault Refusal :=
  match i with
  | .rdReset ch _ _ _ _ _ _ => Sys2Proof.Machine.execRdReset ch s
  | .rdIdle ch _ _ _ _ _ => Sys2Proof.Machine.execRdIdle ch s
  | .rdRsv5 ch _ _ _ _ _ => Sys2Proof.Machine.execRdRsv5 ch s
  | .rdRsv67 ch _ _ _ _ _ _ => Sys2Proof.Machine.execRdRsv67 ch s
  | .asWait ch _ _ _ => Sys2Proof.Machine.execAsWait ch s
  | .asAdv ch _ => Sys2Proof.Machine.execAsAdv ch s
  | .asStart ch _ => Sys2Proof.Machine.execAsStart ch s
  | .asMiss ch _ _ => Sys2Proof.Machine.execAsMiss ch s
  | .asTmo ch _ _ _ _ => Sys2Proof.Machine.execAsTmo ch s
  | .rbWait ch _ _ _ => Sys2Proof.Machine.execRbWait ch s
  | .rbOvf ch _ _ => Sys2Proof.Machine.execRbOvf ch s
  | .rbApp ch _ => Sys2Proof.Machine.execRbApp ch s
  | .rbEnd ch _ => Sys2Proof.Machine.execRbEnd ch s
  | .rbTmo ch _ _ _ _ => Sys2Proof.Machine.execRbTmo ch s
  | .rtWait ch _ _ _ => Sys2Proof.Machine.execRtWait ch s
  | .rtApp ch _ _ => Sys2Proof.Machine.execRtApp ch s
  | .rtLast ch _ _ => Sys2Proof.Machine.execRtLast ch s
  | .rtTmo ch _ _ _ _ => Sys2Proof.Machine.execRtTmo ch s
  | .cpHold ch _ _ _ _ => Sys2Proof.Machine.execCpHold ch s
  | .cpDlv ch _ _ _ _ => Sys2Proof.Machine.execCpDlv ch s
  | .pgReset ch _ _ _ => Sys2Proof.Machine.execPgReset ch s
  | .rtgNone ch _ _ => Sys2Proof.Machine.execRtgNone ch s
  | .rtgI ch => Sys2Proof.Machine.execRtgI ch s
  | .rtgA ch => Sys2Proof.Machine.execRtgA ch s
  | .rtgDgi ch => Sys2Proof.Machine.execRtgDgi ch s
  | .rtgDga ch => Sys2Proof.Machine.execRtgDga ch s
  | .tkDis ch _ _ => Sys2Proof.Machine.execTkDis ch s
  | .tkWait ch _ => Sys2Proof.Machine.execTkWait ch s
  | .tkRise ch => Sys2Proof.Machine.execTkRise ch s
  | .tkFall ch => Sys2Proof.Machine.execTkFall ch s

end Sys2Proof.Machine
end

