-- ==== Sys2Proof/Machine/Cycle.lean ====
section
/-! DEFINITION. One clock cycle of the block (00_scope.md R5, 42_channel.md R180): every channel, in
increasing index (60_exceptions.md R207), performs its frame-reader operation, its retarget
operation and, when `rst = 0`, its tick operation, each selected by the selector that its stage
assembles. No channel reads another's state (42_channel.md R181), and the frame reader and pulse
generator share no register (40_frame_reader.md R100), so performing the operations one after
another gives the registers that R180's simultaneous writes give (log entry 2). -/

namespace Sys2Proof.Machine

/-- Assemble the selector of a stage of channel `ch`, decode it, and perform the operation (R100,
R150). -/
def runStage (g : Stage) (ch : Nat) (s : State) : Result State :=
  match s.selected g ch with
  | some i => exec i s
  | none => .refused (.noSuchChannel ch)

/-- The cycle of one channel (R180). -/
def runChannel (ch : Nat) (s : State) : Result State :=
  chain (runStage .reader ch s) fun s1 =>
    chain (runStage .retarget ch s1) fun s2 =>
      if s2.inp.rst then .next s2 else runStage .tick ch s2

/-- The cycles of the channels of a list, in its order. -/
def runChannels (chs : List Nat) (s : State) : Result State :=
  match chs with
  | [] => .next s
  | ch :: rest => chain (runChannel ch s) fun s' => runChannels rest s'

/-- Every strobe is 0 until an operation of this cycle asserts it (60_exceptions.md R200, 10_state.md
R36). -/
def State.clearStrobes (s : State) : State :=
  { s with chans := s.chans.map fun c => { c with strobes := Strobes.none } }

/-- The edge that ends the cycle: the host's inputs of the next cycle come from the script, or are
free draws when the script is spent (00_scope.md R13; log entry 3). A cycle with `rst = 1` ends the
time before the first reset (70_reset_and_hazards.md R233). -/
def State.nextInputs (s : State) : State :=
  let s' := { s with cycle := s.cycle + 1, wasReset := s.wasReset || s.inp.rst }
  match s.script with
  | [] => { s' with inp := Config.hostInputs s.cycle }
  | i :: rest => { s' with inp := i, script := rest }

/-- One clock cycle: an illegal configuration has no machine (00_scope.md R8, R14). -/
def runCycle (s : State) : Result State :=
  if s.legal then
    chain (runChannels (List.range s.numCh) s.clearStrobes) fun s' => .next s'.nextInputs
  else .refused .illegalConfig

end Sys2Proof.Machine
end

