-- ==== Sys2Proof/Machine/Place.lean ====
section
/-! DEFINITION. Placing a selector word where the next cycle assembles it. The block fetches no
instructions (10_state.md R22): an operation runs because registers and inputs assemble its
selector (30_encoding.md R80 to R82). Placing a word on channel 0 sets the registers and inputs its
bits are read from; bits that R77 and R78 tie to 0 (`c1` in ReadingTrailer, `exp`, `c1`, `c0` in
Complete and the unentered states, `dg` without a reading) stay 0 (log entry 16). -/

namespace Sys2Proof.Machine

/-- The start marker, then bytes from offset `off` on, as a buffer. -/
def placedBuffer (off : Nat) (bs : List Byte) : List Host.Cell :=
  Memory.writeList (Memory.writeList [] 0 startMarker) off bs

/-- The frame reader's registers, buffer and data byte that give `exp = e` at `now`, `c1 = p` and
`c0 = q` in state `st` (R77), within 10_state.md R34 where `st` is entered. -/
def placeReader (c : Channel) (now : Time) (st : FrState) (e p q : Bool) : Channel × Byte :=
  let tRef := if e then now - BitVec.ofNat 32 (c.cfg.timeoutMs + 1) else now
  match st with
  | .awaitingStart =>
    let mp : BitVec 3 := if q then 7 else 0
    ({ c with fr := { st := st, mp := mp, len := 0, trl := 0, tRef := tRef } },
      if p then startByte mp else 0x00)
  | .readingBody =>
    let len := if p then c.cfg.bufCap - trailerLen else 12
    ({ c with
        fr := { st := st, mp := 0, len := BitVec.ofNat 16 len, trl := 0, tRef := tRef }
        buf := placedBuffer (len - 4) [0x1B, 0x1B, 0x1B, 0x1B] },
      if q then 0x1A else 0x00)
  | .readingTrailer =>
    ({ c with
        fr := { st := st, mp := 0, len := if q then 15 else 13, trl := if q then 2 else 0,
                tRef := tRef }
        buf := placedBuffer 8 (endMarker ++ [0x00, 0x00]) }, 0x00)
  | .complete =>
    ({ c with
        fr := { st := st, mp := 0, len := 16, trl := 3, tRef := tRef }
        buf := placedBuffer 8 (endMarker ++ [0x00, 0x00, 0x00]) }, 0x00)
  | _ => ({ c with fr := { c.fr with st := st } }, 0x00)

/-- Channel 0 and its inputs replaced, and `rst` given. -/
def State.withChannel0 (s : State) (rst : Bool) (c : Channel) (i : ChanIn) : State :=
  { s with
    chans := s.chans.set 0 c
    inp := { s.inp with rst := rst, chans := i :: s.inp.chans.tail } }

/-- `s` with an RSEL word placed on channel 0. -/
def State.placeRsel (s : State) (w : BitVec 9) : State :=
  match s.chans[0]? with
  | none => s
  | some c =>
    let pr := placeReader c s.now (FrState.ofCode (w.extractLsb' 5 3)) (w.getLsbD 2)
      (w.getLsbD 1) (w.getLsbD 0)
    s.withChannel0 (w.getLsbD 8) pr.1
      { s.chanIn 0 with rxValid := w.getLsbD 4, rxData := pr.2, frameAck := w.getLsbD 3 }

/-- `s` with a GSEL word placed on channel 0: a reading of 0 W is degenerate, one of 1001 W is not
(41_pulse_generator.md R151). -/
def State.placeGsel (s : State) (w : BitVec 4) : State :=
  match s.chans[0]? with
  | none => s
  | some c =>
    s.withChannel0 (w.getLsbD 3) { c with pg := { c.pg with phase := Phase.ofCode (w.getLsbD 0) } }
      { s.chanIn 0 with rtValid := w.getLsbD 2, rtPower := if w.getLsbD 1 then 0 else 1001 }

/-- `s` with a TSEL word placed on channel 0, with no reading and `rst = 0`. -/
def State.placeTsel (s : State) (w : BitVec 3) : State :=
  match s.chans[0]? with
  | none => s
  | some c =>
    s.withChannel0 false
      { c with
        cfg := { c.cfg with s0En := w.getLsbD 2 }
        pg := { c.pg with
                phase := Phase.ofCode (w.getLsbD 1)
                phaseStart := s.now
                target := if w.getLsbD 0 then 0 else 1 } }
      { s.chanIn 0 with rtValid := false }

/-- `s` with a selector word of `nbits` bits placed on channel 0; a number that is no selector word
changes nothing. -/
def State.placeWord (s : State) (nbits w : Nat) : State :=
  match Format.ofWidth nbits with
  | .error _ => s
  | .ok f =>
    match Selector.ofNat f w with
    | .error _ => s
    | .ok (.rsel v) => s.placeRsel v
    | .ok (.gsel v) => s.placeGsel v
    | .ok (.tsel v) => s.placeTsel v

end Sys2Proof.Machine
end

