-- ==== Sys2Proof/Machine/Step.lean ====
section
/-! DEFINITION. One step of the model: one rising edge of `clk` (00_scope.md R5). -/

namespace Sys2Proof.Machine

/-- One clock cycle of every channel (00_scope.md R5, R14; 42_channel.md R180). -/
def step (s : State) : Host.Outcome State Fault Refusal := runCycle s

/-- `s` with a selector word placed so that the next step's channel 0 assembles and performs it (log
entries 15 and 16). -/
def State.withFetchWord (s : State) (nbits w : Nat) : State := s.placeWord nbits w

end Sys2Proof.Machine
end

