-- ==== Sys2Proof/Machine/Script.lean ====
section
/-! DEFINITION. Stimulus scripts, the block's "assembly" (30_encoding.md R86, R87, R88): abstract
syntax, the reader of the text form, and the expansion to one record of inputs per clock cycle,
which `State.script` holds. A script is how a program comes to run (log entries 16 and 19). -/

namespace Sys2Proof.Machine

/-! ### Abstract syntax (R86, R87) -/

/-- An item of a script line (R86). -/
inductive ScriptItem where
  /-- `RST`. -/
  | rst
  /-- `B hh`. -/
  | byte (b : Byte)
  /-- `ACK`. -/
  | ack
  /-- `P [-]dec`. -/
  | power (p : Int)
  /-- `RD dec`. -/
  | rd (a : Nat)
  /-- `-`. -/
  | nothing
  deriving DecidableEq, Repr

/-- A script line: the inputs of one cycle for one channel; `extra` is `k` of `#k`, 0 without
it (R86). -/
structure ScriptLine where
  time : Nat
  extra : Nat
  ch : Nat
  items : List ScriptItem
  deriving DecidableEq, Repr

/-- A line or a pseudo-instruction (R86, R87). -/
inductive ScriptStmt where
  | line (l : ScriptLine)
  /-- `SEND t b0 b1 ... bn`. -/
  | send (t : Nat) (bytes : List Byte)
  /-- `START t`. -/
  | start (t : Nat)
  /-- `ENDM t`. -/
  | endm (t : Nat)
  /-- `FRAME t p0 ... pm-1 / f c1 c2`. -/
  | frame (t : Nat) (payload : List Byte) (f c1 c2 : Byte)
  /-- `RUN t`. -/
  | run (t : Nat)
  deriving DecidableEq, Repr

/-- The operand of an item fits its port (R86: "must fit sext_32"; R26). -/
def ScriptItem.fits : ScriptItem → Bool
  | .power p => decide (-2147483648 ≤ p) && decide (p ≤ 2147483647)
  | .rd a => decide (a < 65536)
  | _ => true

/-! ### Expansion -/

/-- `SEND`: one byte per millisecond from `t` on, on channel 0 (R87). -/
def sendLines (t : Nat) (bytes : List Byte) : List ScriptLine :=
  match bytes with
  | [] => []
  | b :: rest => { time := t, extra := 0, ch := 0, items := [.byte b] } :: sendLines (t + 1) rest

/-- The lines a statement stands for (R87). `RUN t` is the line `@t -`, so that the cycles up to `t`
are run. -/
def ScriptStmt.lines : ScriptStmt → List ScriptLine
  | .line l => [l]
  | .send t bytes => sendLines t bytes
  | .start t => sendLines t startMarker
  | .endm t => sendLines t endMarker
  | .frame t payload f c1 c2 =>
    sendLines t (startMarker ++ payload ++ endMarker ++ [f, c1, c2])
  | .run t => [{ time := t, extra := 0, ch := 0, items := [.nothing] }]

/-- What an item asserts on its channel's ports (R86). DESIGN CHOICE (log entry 19): `-` beside other items
asserts nothing and takes nothing back. -/
def ScriptItem.assert (i : ChanIn) : ScriptItem → ChanIn
  | .rst => i
  | .byte b => { i with rxValid := true, rxData := b }
  | .ack => { i with frameAck := true }
  | .power p => { i with rtValid := true, rtPower := BitVec.ofInt 32 p }
  | .rd a => { i with rdAddr := BitVec.ofNat 16 a }
  | .nothing => i

/-- The inputs of channel `ch` in a cycle with these lines; an input not named is 0 (R86). DESIGN CHOICE (log
entry 19): R86 does not say what two items that name the same port mean, in one line or in two; they apply
in order and the later one wins. -/
def chanInOf (here : List ScriptLine) (ch : Nat) : ChanIn :=
  ((here.filter fun l => l.ch == ch).flatMap fun l => l.items).foldl ScriptItem.assert ChanIn.idle

/-- The inputs of the `k`-th extra cycle (0: the plain one) at time `t` (R86). -/
def cycleInOf (lines : List ScriptLine) (t k : Nat) : CycleIn :=
  let here := lines.filter fun l => l.time == t && l.extra == k
  let n := (here.map fun l => l.ch + 1).foldl max 0
  { rst := here.any fun l => l.items.contains .rst
    nowMs := BitVec.ofNat 32 t
    chans := (List.range n).map (chanInOf here) }

/-- The cycles at time `t`: the plain one, then the extra ones in order (R86). -/
def cyclesAt (lines : List ScriptLine) (t : Nat) : List CycleIn :=
  let k := ((lines.filter fun l => l.time == t).map fun l => l.extra).foldl max 0
  (List.range (k + 1)).map (cycleInOf lines t)

/-- Exactly one cycle at every integer time from the first listed to the last, plus the extra
cycles (R86). -/
def cyclesOf (lines : List ScriptLine) : List CycleIn :=
  match lines with
  | [] => []
  | l :: rest =>
    let first := (rest.map fun x => x.time).foldl min l.time
    let last := (rest.map fun x => x.time).foldl max l.time
    (List.range (last + 1 - first)).flatMap fun d => cyclesAt lines (first + d)

/-- The cycles of a script; none if an operand does not fit its port. DESIGN CHOICE (log entry 19): R86 does
not say what a line for a channel `n` at or above `NUM_CH` means; it is accepted, its cycle runs, its
`RST` resets the block, and its other items reach no channel. -/
def scriptCycles (prog : List ScriptStmt) : Option (List CycleIn) :=
  let lines := prog.flatMap ScriptStmt.lines
  if lines.all fun l => l.items.all ScriptItem.fits then some (cyclesOf lines) else none

/-- The block with the cycles of a script as its coming inputs. -/
def State.withCycles (s : State) (cs : List CycleIn) : State :=
  match cs with
  | [] => s
  | i :: rest => { s with inp := i, script := rest }

/-- The block with a script loaded; none if the script is ill formed. -/
def State.loadScript (s : State) (prog : List ScriptStmt) : Option State :=
  (scriptCycles prog).map s.withCycles

/-- The encoding of a channel's script cycle (R88): the selector words its inputs and the state
before it assemble, TSEL (after the retarget stage) only when `rst = 0`. -/
def State.selectors (s : State) (ch : Nat) : List Selector :=
  let sel (g : Stage) (s' : State) : List Selector :=
    ((s'.selected g ch).map encode).toList
  let after : Option State :=
    match runStage .retarget ch s with
    | .next s2 => some s2
    | _ => none
  sel .reader s ++ sel .retarget s ++
    match after with
    | some s2 => if s2.inp.rst then [] else sel .tick s2
    | none => []

/-! ### The text form -/

/-- A token of a script line. -/
inductive ScriptTok where
  | word (cs : List Char)
  | at
  | hash
  | colon
  | comma
  | slash
  deriving DecidableEq, Repr

/-- A character that is a token by itself. -/
def markOf (c : Char) : Option ScriptTok :=
  if c = '@' then some .at
  else if c = '#' then some .hash
  else if c = ':' then some .colon
  else if c = ',' then some .comma
  else if c = '/' then some .slash
  else none

/-- The word read so far, if any, before the tokens that follow it. -/
def flushWord (acc : List Char) (rest : List ScriptTok) : List ScriptTok :=
  if acc.isEmpty then rest else .word acc :: rest

/-- Tokens of a line; blanks separate words. -/
def tokenize (acc : List Char) (cs : List Char) : List ScriptTok :=
  match cs with
  | [] => flushWord acc []
  | c :: rest =>
    if c = ' ' then flushWord acc (tokenize [] rest)
    else
      match markOf c with
      | some m => flushWord acc (m :: tokenize [] rest)
      | none => tokenize (acc ++ [c]) rest

/-- A digit of base 16; upper or lower case letters. -/
def hexDigit (c : Char) : Option Nat :=
  let n := c.toNat
  if 48 ≤ n ∧ n ≤ 57 then some (n - 48)
  else if 65 ≤ n ∧ n ≤ 70 then some (n - 55)
  else if 97 ≤ n ∧ n ≤ 102 then some (n - 87)
  else none

/-- A byte of two hex digits (00_scope.md R10). -/
def readByte (cs : List Char) : Option Byte :=
  match cs with
  | [h, l] =>
    match hexDigit h, hexDigit l with
    | some a, some b => some (BitVec.ofNat 8 (16 * a + b))
    | _, _ => none
  | _ => none

/-- Decimal digits after the value `n`. -/
def readDigits (n : Nat) (cs : List Char) : Option Nat :=
  match cs with
  | [] => some n
  | c :: rest =>
    let d := c.toNat
    if 48 ≤ d ∧ d ≤ 57 then readDigits (10 * n + (d - 48)) rest else none

/-- A decimal number. -/
def readDec (cs : List Char) : Option Nat :=
  if cs.isEmpty then none else readDigits 0 cs

/-- A decimal number with an optional minus sign. -/
def readInt (cs : List Char) : Option Int :=
  match cs with
  | '-' :: rest => (readDec rest).map fun n => -(n : Int)
  | _ => (readDec cs).map fun n => (n : Int)

/-- One item (R86). -/
def readItem (ts : List ScriptTok) : Option ScriptItem :=
  match ts with
  | [.word ['R', 'S', 'T']] => some .rst
  | [.word ['A', 'C', 'K']] => some .ack
  | [.word ['-']] => some .nothing
  | [.word ['B'], .word hh] => (readByte hh).map .byte
  | [.word ['P'], .word d] => (readInt d).map .power
  | [.word ['R', 'D'], .word d] => (readDec d).map .rd
  | _ => none

/-- The runs of tokens between commas. -/
def splitCommas (cur : List ScriptTok) (ts : List ScriptTok) : List (List ScriptTok) :=
  match ts with
  | [] => [cur]
  | .comma :: rest => cur :: splitCommas [] rest
  | t :: rest => splitCommas (cur ++ [t]) rest

/-- Every element read, or none. -/
def readAll {α β : Type} (f : α → Option β) (xs : List α) : Option (List β) :=
  match xs with
  | [] => some []
  | x :: rest =>
    match f x, readAll f rest with
    | some y, some ys => some (y :: ys)
    | _, _ => none

/-- A token that is a byte. -/
def readByteTok : ScriptTok → Option Byte
  | .word hh => readByte hh
  | _ => none

/-- The rest of a line after its time: an optional channel, then the items (R86). -/
def readRest (time extra : Nat) (ts : List ScriptTok) : Option ScriptStmt :=
  match ts with
  | .word ('c' :: 'h' :: n) :: .colon :: rest =>
    match readDec n, readAll readItem (splitCommas [] rest) with
    | some ch, some items => some (.line { time := time, extra := extra, ch := ch, items := items })
    | _, _ => none
  | _ =>
    (readAll readItem (splitCommas [] ts)).map fun items =>
      .line { time := time, extra := extra, ch := 0, items := items }

/-- The bytes of a `FRAME` after its time: the payload, `/`, three trailer bytes (R87). -/
def readFrame (t : Nat) (payload : List Byte) (ts : List ScriptTok) : Option ScriptStmt :=
  match ts with
  | .slash :: rest =>
    match readAll readByteTok rest with
    | some [f, c1, c2] => some (.frame t payload f c1 c2)
    | _ => none
  | x :: rest =>
    match readByteTok x with
    | some b => readFrame t (payload ++ [b]) rest
    | none => none
  | [] => none

/-- A statement from its tokens (R86, R87). -/
def readToks (ts : List ScriptTok) : Option ScriptStmt :=
  match ts with
  | .at :: .word d :: .hash :: .word k :: rest =>
    match readDec d, readDec k with
    | some time, some extra => if extra = 0 then none else readRest time extra rest
    | _, _ => none
  | .at :: .word d :: rest =>
    match readDec d with
    | some time => readRest time 0 rest
    | none => none
  | .word ['S', 'E', 'N', 'D'] :: .word d :: rest =>
    match readDec d, readAll readByteTok rest with
    | some t, some (b :: bs) => some (.send t (b :: bs))
    | _, _ => none
  | [.word ['S', 'T', 'A', 'R', 'T'], .word d] => (readDec d).map .start
  | [.word ['E', 'N', 'D', 'M'], .word d] => (readDec d).map .endm
  | .word ['F', 'R', 'A', 'M', 'E'] :: .word d :: rest =>
    match readDec d with
    | some t => readFrame t [] rest
    | none => none
  | [.word ['R', 'U', 'N'], .word d] => (readDec d).map .run
  | _ => none

/-- A line of script text; none if it is not of the forms of R86 and R87. -/
def readStmt (cs : List Char) : Option ScriptStmt := readToks (tokenize [] cs)

/-- A script, line by line. -/
def readScript (lines : List (List Char)) : Option (List ScriptStmt) := readAll readStmt lines

end Sys2Proof.Machine
end

