-- ==== Sys2Proof/Safety.lean ====
section
/-! DEFINITION. What claims about the block are stated in: the invariants of 10_state.md R34 and R37 with
the buffer's canonical form, runs of one unit over a stream of inputs, and the classes of operations
that frame statements name. -/

namespace Sys2Proof.Machine

/-! ### The invariants (10_state.md R34, R37) -/

/-- `buf[off ..< off + |bs|] = bs`, every byte of it written. -/
def Memory.Holds (m : List Host.Cell) (off : Nat) (bs : List Byte) : Prop :=
  ∀ k, k < bs.length → Memory.read? m (off + k) = bs[k]?

/-- Every offset below `n` has been written (20_memory.md R52). -/
def Memory.WrittenBelow (m : List Host.Cell) (n : Nat) : Prop :=
  ∀ off, off < n → (Memory.read? m off).isSome

/-- The buffer is in canonical form and holds offsets below `C` only (20_memory.md R50, R66). -/
def Channel.BufferOk (c : Channel) : Prop :=
  Memory.wf c.buf ∧ ∀ x ∈ c.buf, x.1 < c.cfg.bufCap

/-- R34 for the frame reader, and, while a frame is in progress or held, R52's "the byte was written
during the current frame" for every offset below `len`. -/
def Channel.ReaderInv (c : Channel) : Prop :=
  match c.fr.st with
  | .awaitingStart => c.fr.trl = 0 ∧ c.fr.len.toNat ≤ c.cfg.bufCap
  | .readingBody =>
    8 ≤ c.fr.len.toNat ∧ c.fr.len.toNat + 3 ≤ c.cfg.bufCap ∧ c.fr.trl = 0 ∧
      Memory.Holds c.buf 0 startMarker ∧ Memory.WrittenBelow c.buf c.fr.len.toNat
  | .readingTrailer =>
    13 ≤ c.fr.len.toNat ∧
      c.fr.len.toNat + (3 - c.fr.trl.toNat) ≤ c.cfg.bufCap ∧ c.fr.trl ≠ 3 ∧
      Memory.Holds c.buf 0 startMarker ∧
      Memory.Holds c.buf (c.fr.len.toNat - c.fr.trl.toNat - 5) endMarker ∧
      Memory.WrittenBelow c.buf c.fr.len.toNat
  | .complete =>
    16 ≤ c.fr.len.toNat ∧ c.fr.len.toNat ≤ c.cfg.bufCap ∧ c.fr.trl = 3 ∧
      Memory.Holds c.buf 0 startMarker ∧ Memory.Holds c.buf (c.fr.len.toNat - 8) endMarker ∧
      Memory.WrittenBelow c.buf c.fr.len.toNat
  | _ => False

/-- R37 for the pulse generator (its clause on `phase_start` is about a run, not a state). -/
def Channel.PulseInv (c : Channel) : Prop :=
  if c.cfg.s0En then c.pg.pulseOut = c.pg.phase.code
  else c.pg.pulseOut = false ∧ c.pg.phase = .idle ∧ c.pg.target = c.pg.idleMs

/-- A code that no rule enters: 0, 5, 6, 7 (30_encoding.md R72). -/
def FrState.unentered : FrState → Bool
  | .idle => true
  | .reserved5 => true
  | .reserved6 => true
  | .reserved7 => true
  | _ => false

/-- The invariant of one channel. -/
def Channel.Inv (c : Channel) : Prop := c.BufferOk ∧ c.ReaderInv ∧ c.PulseInv

/-- The invariant of the block: a legal configuration (00_scope.md R8) and R34, R37 in every
channel. -/
def State.Inv (s : State) : Prop := s.legal = true ∧ ∀ c ∈ s.chans, c.Inv

end Sys2Proof.Machine

namespace Sys2Proof

open Machine

/-! ### Classes of operations -/

/-- The operation is one of the frame reader (an RSEL row). -/
def Instr.isReader (i : Instr) : Bool := decide (i.row.format = .rsel)

/-- The operations that write the frame buffer (20_memory.md R51). -/
def Instr.storesBytes : Instr → Bool
  | .asStart _ _ => true
  | .rbApp _ _ => true
  | .rbEnd _ _ => true
  | .rtApp _ _ _ => true
  | .rtLast _ _ _ => true
  | _ => false

/-- The operations that write `phase` (41_pulse_generator.md R150). -/
def Instr.writesPhase : Instr → Bool
  | .pgReset _ _ _ _ => true
  | .tkRise _ => true
  | .tkFall _ => true
  | _ => false

/-- The operations that write `t_ref` (40_frame_reader.md R123). -/
def Instr.writesTRef : Instr → Bool
  | .rdReset _ _ _ _ _ _ _ => true
  | .asStart _ _ => true
  | .asTmo _ _ _ _ _ => true
  | .rbOvf _ _ _ => true
  | .rbEnd _ _ => true
  | .rbTmo _ _ _ _ _ => true
  | .rtLast _ _ _ => true
  | .rtTmo _ _ _ _ _ => true
  | .cpDlv _ _ _ _ _ => true
  | _ => false

/-- The operations that change nothing. -/
def Instr.holds : Instr → Bool
  | .asWait _ _ _ _ => true
  | .rbWait _ _ _ _ => true
  | .rtWait _ _ _ _ => true
  | .cpHold _ _ _ _ _ => true
  | .rtgNone _ _ _ => true
  | .tkWait _ _ => true
  | _ => false

/-- The operations that raise an event (60_exceptions.md R201). -/
def Instr.raises : Instr → Bool
  | .asTmo _ _ _ _ _ => true
  | .rbTmo _ _ _ _ _ => true
  | .rtTmo _ _ _ _ _ => true
  | .rbOvf _ _ _ => true
  | .cpDlv _ _ _ _ _ => true
  | .rtgI _ => true
  | .rtgA _ => true
  | .rtgDgi _ => true
  | .rtgDga _ => true
  | _ => false

/-- Where a storing operation stores, and how many bytes: AS.START offsets 0 to 7, an append offset
`len` (20_memory.md R53, R57); of these, the offsets the buffer has (R66). -/
def Instr.stores (i : Instr) (c : Channel) : Option (Nat × Nat) :=
  if i.storesBytes then
    match i with
    | .asStart _ _ => some (0, 8)
    | _ => some (c.fr.len.toNat, 1)
  else none

/-- The state an operation leaves the frame reader in, from `st` (40_frame_reader.md R135). -/
def Instr.goesTo (i : Instr) (st : FrState) : FrState :=
  match i with
  | .rdReset _ _ _ _ _ _ _ => .awaitingStart
  | .asStart _ _ => .readingBody
  | .asTmo _ _ _ _ _ => .awaitingStart
  | .rbEnd _ _ => .readingTrailer
  | .rbOvf _ _ _ => .awaitingStart
  | .rbTmo _ _ _ _ _ => .awaitingStart
  | .rtLast _ _ _ => .complete
  | .rtTmo _ _ _ _ _ => .awaitingStart
  | .cpDlv _ _ _ _ _ => .awaitingStart
  | _ => st

/-- The states an operation of the frame reader is selected in (R135); RD.RESET in any. -/
def Instr.startsIn (i : Instr) (st : FrState) : Prop :=
  match i with
  | .rdIdle _ _ _ _ _ _ => st = .idle
  | .rdRsv5 _ _ _ _ _ _ => st = .reserved5
  | .rdRsv67 _ _ _ _ _ _ _ => st = .reserved6 ∨ st = .reserved7
  | .asWait _ _ _ _ => st = .awaitingStart
  | .asAdv _ _ => st = .awaitingStart
  | .asStart _ _ => st = .awaitingStart
  | .asMiss _ _ _ => st = .awaitingStart
  | .asTmo _ _ _ _ _ => st = .awaitingStart
  | .rbWait _ _ _ _ => st = .readingBody
  | .rbOvf _ _ _ => st = .readingBody
  | .rbApp _ _ => st = .readingBody
  | .rbEnd _ _ => st = .readingBody
  | .rbTmo _ _ _ _ _ => st = .readingBody
  | .rtWait _ _ _ _ => st = .readingTrailer
  | .rtApp _ _ _ => st = .readingTrailer
  | .rtLast _ _ _ => st = .readingTrailer
  | .rtTmo _ _ _ _ _ => st = .readingTrailer
  | .cpHold _ _ _ _ _ => st = .complete
  | .cpDlv _ _ _ _ _ => st = .complete
  | .rdReset _ _ _ _ _ _ _ => True
  | _ => False

end Sys2Proof

namespace Sys2Proof.Machine

/-- Outside channel `ch` and the history, `t` is `s`: the frame of every operation of `ch`. -/
def State.SameOutside (s t : State) (ch : Nat) : Prop :=
  t.idleDefaultMs = s.idleDefaultMs ∧ t.inp = s.inp ∧ t.script = s.script ∧ t.cycle = s.cycle ∧
    t.wasReset = s.wasReset ∧ t.numCh = s.numCh ∧ ∀ j, j ≠ ch → t.chans[j]? = s.chans[j]?

/-- Every byte of every channel's buffer reads in `t` as in `s`, but those of channel `ch` that
`stored` names (an address and a width). -/
def State.SameBytes (s t : State) (ch : Nat) (stored : Option (Nat × Nat)) : Prop :=
  ∀ j d d' off, s.chans[j]? = some d → t.chans[j]? = some d' →
    (∀ a n, stored = some (a, n) → j = ch → off < a ∨ a + n ≤ off) →
    memRead j d' off = memRead j d off

/-! ### Host duties -/

/-- R240 (70_reset_and_hazards.md) for two samples of `now_ms`: the true times `t0` of the first and `t` of
the second are in order and less than `2^32` ms apart. -/
def TrueTimes (first second : Time) (t0 t : Nat) : Prop :=
  first = BitVec.ofNat 32 t0 ∧ second = BitVec.ofNat 32 t ∧ t0 ≤ t ∧ t < t0 + 4294967296

/-! ### One unit over a stream of inputs -/

/-- A byte presented in a cycle at time `now` (10_state.md R26). -/
structure Arrival where
  now : Time
  byte : Byte
  deriving DecidableEq, Repr

/-- The inputs of a cycle with `rst = 0` in which channel `ch` is presented a byte and nothing else
is asserted. -/
def State.presenting (s : State) (ch : Nat) (a : Arrival) : State :=
  { s with
    inp :=
      { rst := false
        nowMs := a.now
        chans := List.replicate ch ChanIn.idle ++
          [{ ChanIn.idle with rxValid := true, rxData := a.byte }] } }

/-- Channel `ch`'s frame reader over a stream of bytes, one a cycle. -/
def feed (ch : Nat) (as : List Arrival) (s : State) : Result State :=
  match as with
  | [] => .next s
  | a :: rest => chain (runStage .reader ch (s.presenting ch a)) fun s' => feed ch rest s'

/-- Channel `ch`'s timeout has expired in this cycle (40_frame_reader.md R121). -/
def State.expired (s : State) (ch : Nat) : Bool :=
  match s.chans[ch]? with
  | some c => c.exp s.now
  | none => false

/-- No cycle of the stream sees an expired timeout ("consumed with no timeout", R125, R129). -/
def NoTimeout (ch : Nat) (as : List Arrival) (s : State) : Prop :=
  match as with
  | [] => True
  | a :: rest =>
    (s.presenting ch a).expired ch = false ∧
      ∀ s', runStage .reader ch (s.presenting ch a) = .next s' → NoTimeout ch rest s'

/-- The next millisecond, with no reading presented (41_pulse_generator.md R163: one cycle at every
integer `now_ms`). -/
def State.nextMs (s : State) : State :=
  { s with inp := { rst := false, nowMs := s.now + 1, chans := [] } }

/-- Channel `ch`'s pulse generator, retarget then tick (R150), over `n` milliseconds without a
reading. -/
def pulseRun (ch : Nat) (n : Nat) (s : State) : Result State :=
  match n with
  | 0 => .next s
  | n + 1 =>
    chain (pulseRun ch n s) fun s' =>
      chain (runStage .retarget ch s'.nextMs) fun s'' => runStage .tick ch s''

end Sys2Proof.Machine
end

