-- ==== Sys2Proof/Certificates/Slice0/Obligations.lean ====
section
/-! DEFINITION. The statements about the block, from the numbered rules of spec/. `s` is the state a cycle
or an operation starts from, `c` its channel `ch`, and a statement about an operation holds whatever
its free selector bits are. -/

open Sys2Proof Sys2Proof.Machine

/-! ### Encoding -/

/-- Every operation's selector word decodes to it, and every selector word is its operation's. -/
def Obligations.EncodeThenDecodeIsIdentity : Prop :=
  (∀ i : Instr, decode i.channel (encode i) = i) ∧
    ∀ (ch : Nat) (sel : Selector), encode (decode ch sel) = sel

/-- R83: every value of every selector matches exactly one row of its format, that of the operation it
decodes to. -/
def Obligations.EverySelectorMatchesExactlyOneRow : Prop :=
  ∀ (ch : Nat) (sel : Selector),
    (sel.format.rows.filter fun r => r.covers sel.toNat) = [(decode ch sel).row] ∧
      (decode ch sel).channel = ch

/-- Words of every family, with the operation 95_test_vectors.md gives each. -/
def Obligations.SampleWordsDecodeAsListed : Prop :=
  decodeTableWord 9 0x1A0 = some (.rdReset 0 5 false false false false false) ∧
    decodeTableWord 9 0x0E5 = some (.rdRsv67 0 true false false true false true) ∧
    decodeTableWord 9 0x032 = some (.asAdv 0 false) ∧
    decodeTableWord 9 0x03F = some (.asTmo 0 true true true true) ∧
    decodeTableWord 9 0x053 = some (.rbOvf 0 false true) ∧
    decodeTableWord 9 0x072 = some (.rtApp 0 false true) ∧
    decodeTableWord 9 0x098 = some (.cpDlv 0 true false false false) ∧
    decodeTableWord 4 0xF = some (.pgReset 0 true true true) ∧
    decodeTableWord 4 0x6 = some (.rtgDgi 0) ∧
    decodeTableWord 3 0x6 = some (.tkWait 0 true) ∧
    decodeTableWord 9 0x200 = none ∧ decodeTableWord 5 0 = none

/-! ### The cycle -/

/-- R180: a step of a legal block clears the strobes, runs the channels in increasing index, and takes the
next inputs; a channel runs the operation its RSEL decodes to, then the one its GSEL decodes to, then,
when `rst = 0`, the one its TSEL, assembled from the registers that leaves, decodes to. -/
def Obligations.StepRunsTheDecodedOperations : Prop :=
  (∀ s : State, s.legal = true →
    step s = chain (runChannels (List.range s.numCh) s.clearStrobes) fun t => .next t.nextInputs) ∧
  (∀ s : State, runChannels [] s = .next s) ∧
  (∀ (s : State) (ch : Nat) (rest : List Nat),
    runChannels (ch :: rest) s = chain (runChannel ch s) (runChannels rest)) ∧
  (∀ (s : State) (ch : Nat) (c : Channel), s.chans[ch]? = some c →
    (∀ s1, exec (decode ch (.rsel (c.rsel ch s.inp.rst s.now (s.chanIn ch)))) s ≠ .next s1) →
    runChannel ch s = exec (decode ch (.rsel (c.rsel ch s.inp.rst s.now (s.chanIn ch)))) s) ∧
  ∀ (s s1 s2 : State) (ch : Nat) (c c1 c2 : Channel),
    s.chans[ch]? = some c → s1.chans[ch]? = some c1 → s2.chans[ch]? = some c2 →
    exec (decode ch (.rsel (c.rsel ch s.inp.rst s.now (s.chanIn ch)))) s = .next s1 →
    exec (decode ch (.gsel (c1.gsel s.inp.rst (s.chanIn ch)))) s1 = .next s2 →
    runChannel ch s =
      if s.inp.rst = true then .next s2 else exec (decode ch (.tsel (c2.tsel s.now))) s2

/-- R8: exactly a configuration outside the ranges of R6 and R7 is refused. -/
def Obligations.ExactlyIllegalConfigurationsAreRefused : Prop :=
  ∀ s : State,
    step s = .refused .illegalConfig ↔
      s.numCh = 0 ∨ 256 < s.numCh ∨ s.idleDefaultMs = 0 ∨ 4294967296 ≤ s.idleDefaultMs ∨
        ∃ c ∈ s.chans,
          255 < c.cfg.chId ∨ c.cfg.bufCap < 16 ∨ 65535 < c.cfg.bufCap ∨ 65535 < c.cfg.timeoutS ∨
            c.cfg.ppkwh = 0 ∨ 4294967296 ≤ c.cfg.ppkwh ∨ c.cfg.activeMs = 0 ∨
            65535 < c.cfg.activeMs

/-- R237, R33: no step changes the configuration or `IDLE_DEFAULT_MS`, and no channel comes or goes. -/
def Obligations.ConfigurationNeverChanges : Prop :=
  ∀ s t : State, step s = .next t →
    t.idleDefaultMs = s.idleDefaultMs ∧
      (t.chans.map fun c => c.cfg) = s.chans.map fun c => c.cfg

/-- R181: what a channel becomes depends on itself, its inputs, `rst`, `now_ms` and `IDLE_DEFAULT_MS`
alone, whatever the other channels hold and are given. -/
def Obligations.ChannelsAreIndependent : Prop :=
  ∀ (s s' t t' : State) (ch : Nat), s'.chans[ch]? = s.chans[ch]? →
    s'.chanIn ch = s.chanIn ch → s'.inp.rst = s.inp.rst → s'.inp.nowMs = s.inp.nowMs →
    s'.idleDefaultMs = s.idleDefaultMs → ch < s.numCh → step s = .next t → step s' = .next t' →
    t'.chans[ch]? = t.chans[ch]? ∧
      ((t'.history.drop s'.history.length).filter fun r => r.ch == ch) =
        (t.history.drop s.history.length).filter fun r => r.ch == ch

/-- R100, R181: the frame reader touches no pulse-generator register of any channel, and the pulse generator
no register or buffer of any frame reader. -/
def Obligations.ReaderAndPulseGeneratorShareNoRegister : Prop :=
  ∀ (i : Instr) (s t : State), exec i s = .next t →
    (i.isReader = true → (t.chans.map fun c => c.pg) = s.chans.map fun c => c.pg) ∧
    (i.isReader = false →
      (t.chans.map fun c => (c.fr, c.buf)) = s.chans.map fun c => (c.fr, c.buf))

/-! ### Reset -/

/-- R230: RD.RESET, in every state of the channel. -/
def Obligations.RdResetResult : Prop :=
  ∀ (s : State) (ch : Nat) (c : Channel), s.chans[ch]? = some c →
    (∀ st v k e p q, exec (.rdReset ch st v k e p q) s =
      .next { s with
        chans := s.chans.set ch
          { c with fr := { st := .awaitingStart, mp := 0, len := 0, trl := 0, tRef := s.now } } }) ∧
    (s.inp.rst = true → ∃ st v k e p q, s.selected .reader ch = some (.rdReset ch st v k e p q)) ∧
    c.rxReady true = false ∧ c.frameValid true = false ∧ c.consumes true (s.chanIn ch) = false ∧
    (c.toAwait s.now).rxReady false = true

/-- R231: PG.RESET, whatever reading is presented. -/
def Obligations.PgResetResult : Prop :=
  ∀ (s : State) (ch : Nat) (c : Channel), s.chans[ch]? = some c →
    (∀ g d h, exec (.pgReset ch g d h) s =
      .next { s with
        chans := s.chans.set ch
          { c with
            pg := { phase := .idle, phaseStart := s.now, target := BitVec.ofNat 32 s.idleDefaultMs,
                    idleMs := BitVec.ofNat 32 s.idleDefaultMs, pulseOut := false } } }) ∧
    (s.inp.rst = true → ∃ g d h, s.selected .retarget ch = some (.pgReset ch g d h)) ∧
    (s.inp.rst = true → ∀ s1, runStage .reader ch s = .next s1 →
      runChannel ch s = runStage .retarget ch s1)

/-- R235, R232: a cycle with `rst = 1` never stops, and leaves every channel of any legal block as the reset
summary says, with no strobe, as State holds them (log entry 14). That the block then counts as reset is the
model's own flag `wasReset` (log entry 21). -/
def Obligations.ResetCycleFromAnyState : Prop :=
  ∀ s : State, s.legal = true → s.inp.rst = true →
    ∃ t, step s = .next t ∧ t.history = s.history ∧ t.numCh = s.numCh ∧ t.wasReset = true ∧
      ∀ (ch : Nat) (c : Channel), s.chans[ch]? = some c →
        t.chans[ch]? = some
          { cfg := c.cfg
            fr := { st := .awaitingStart, mp := 0, len := 0, trl := 0, tRef := s.now }
            buf := c.buf
            pg := { phase := .idle, phaseStart := s.now, target := BitVec.ofNat 32 s.idleDefaultMs,
                    idleMs := BitVec.ofNat 32 s.idleDefaultMs, pulseOut := false }
            strobes := Strobes.none }

/-- The state after reset: the registers as R230 and R231 leave them, with the build values, the reset
cycle's time and the empty history that log entries 4, 5 and 13 choose, the strobes as State holds them (log
entry 14) and the model's own flag `wasReset` (log entry 21). It is what one reset cycle at time 0 leaves from
the model's power-on state (log entry 21), whatever the registers held (R233, R235), but for the inputs and
the model's own counter (log entries 6 and 11). -/
def Obligations.ResetStateHolds : Prop :=
  (∀ nxt : CycleIn,
    step (State.powerOn 60000 [ChannelConfig.reference] { rst := true, nowMs := 0, chans := [] }
        [nxt]) =
      .next { State.reset with inp := nxt, cycle := 1 }) ∧
  State.reset.legal = true ∧ State.reset.numCh = 1 ∧ State.reset.history = [] ∧
    State.reset.wasReset = true ∧
    ∀ c ∈ State.reset.chans,
      c.cfg = ChannelConfig.reference ∧
        c.fr = { st := .awaitingStart, mp := 0, len := 0, trl := 0, tRef := 0 } ∧ c.buf = [] ∧
        c.pg = { phase := .idle, phaseStart := 0, target := 60000, idleMs := 60000,
                 pulseOut := false } ∧
        c.strobes = Strobes.none

/-! ### Invariants -/

/-- The invariants of R34 and R37 hold in the state after reset. -/
def Obligations.InvariantHoldsAtReset : Prop := State.reset.Inv

/-- A reset cycle establishes the invariants from any registers, as long as the buffers are buffers. -/
def Obligations.ResetCycleEstablishesInvariant : Prop :=
  ∀ s : State, s.legal = true → (∀ c ∈ s.chans, c.BufferOk) → s.inp.rst = true →
    ∃ t, step s = .next t ∧ t.Inv

/-- R34, R37, R66: from every state that meets the invariants, whatever the inputs, a step answers a next
state, no fault and no refusal, and that state meets them. -/
def Obligations.EveryStepKeepsInvariant : Prop :=
  ∀ s : State, s.Inv → ∃ t, step s = .next t ∧ t.Inv

/-- R66, R50: no operation lists a byte at an offset past the buffer, and every operation keeps the buffers'
canonical form, from any state. -/
def Obligations.EveryOperationKeepsBuffers : Prop :=
  ∀ (i : Instr) (s t : State), exec i s = .next t → (∀ c ∈ s.chans, c.BufferOk) →
    ∀ c ∈ t.chans, c.BufferOk

/-! ### The codes no rule enters -/

/-- R102, R103, R104: the operations of the unentered codes fault, and are selected in those codes. -/
def Obligations.UnenteredCodesFault : Prop :=
  ∀ (s : State) (ch : Nat) (c : Channel), s.chans[ch]? = some c →
    (∀ v k e p q, exec (.rdIdle ch v k e p q) s = .fault (.unreachableState c.chId 0)) ∧
    (∀ v k e p q, exec (.rdRsv5 ch v k e p q) s = .fault (.unreachableState c.chId 5)) ∧
    (∀ s0 v k e p q, exec (.rdRsv67 ch s0 v k e p q) s =
      .fault (.unreachableState c.chId c.fr.st.code)) ∧
    (s.inp.rst = false →
      (c.fr.st = .idle → ∃ v k e p q, s.selected .reader ch = some (.rdIdle ch v k e p q)) ∧
      (c.fr.st = .reserved5 → ∃ v k e p q, s.selected .reader ch = some (.rdRsv5 ch v k e p q)) ∧
      (c.fr.st = .reserved6 ∨ c.fr.st = .reserved7 →
        ∃ s0 v k e p q, s.selected .reader ch = some (.rdRsv67 ch s0 v k e p q)) ∧
      (c.fr.st = .idle ∨ c.fr.st = .reserved5 ∨ c.fr.st = .reserved6 ∨ c.fr.st = .reserved7 →
        c.rxReady false = false ∧ c.consumes false (s.chanIn ch) = false))

/-- R14, R72: the outcome of a step, in every state. An illegal configuration is refused. Otherwise, in a
cycle with `rst = 0`, a channel with an unentered state code stops the block with
`UnreachableState(CH_ID, st)`, the one of the lowest index if there are several (log entry 23); and with
`rst = 1`, or with no such code, the step answers a next state: no other fault exists. -/
def Obligations.UnenteredCodeStopsTheStep : Prop :=
  ∀ s : State,
    (s.legal = false → step s = .refused .illegalConfig) ∧
    (s.legal = true → s.inp.rst = false → ∀ (ch : Nat) (c : Channel), s.chans[ch]? = some c →
      c.fr.st = .idle ∨ c.fr.st = .reserved5 ∨ c.fr.st = .reserved6 ∨ c.fr.st = .reserved7 →
      (∀ j d, j < ch → s.chans[j]? = some d → d.fr.st.unentered = false) →
      step s = .fault (.unreachableState c.chId c.fr.st.code)) ∧
    (s.legal = true → (s.inp.rst = true ∨ ∀ c ∈ s.chans, c.fr.st.unentered = false) →
      ∃ t, step s = .next t)

/-! ### Operations that change nothing -/

/-- R105, R110, R115: with no byte and no timeout, nothing changes. -/
def Obligations.ReaderWaitsChangeNothing : Prop :=
  ∀ (s : State) (ch : Nat) (c : Channel), s.chans[ch]? = some c →
    (∀ k p q, exec (.asWait ch k p q) s = .next s) ∧
    (∀ k p q, exec (.rbWait ch k p q) s = .next s) ∧
    (∀ k p q, exec (.rtWait ch k p q) s = .next s) ∧
    (s.inp.rst = false → (s.chanIn ch).rxValid = false →
      elapsed s.now c.fr.tRef ≤ c.cfg.timeoutMs →
      (c.fr.st = .awaitingStart →
        c.rxReady false = true ∧ ∃ k p q, s.selected .reader ch = some (.asWait ch k p q)) ∧
      (c.fr.st = .readingBody →
        c.rxReady false = true ∧ ∃ k p q, s.selected .reader ch = some (.rbWait ch k p q)) ∧
      (c.fr.st = .readingTrailer →
        c.rxReady false = true ∧ ∃ k p q, s.selected .reader ch = some (.rtWait ch k p q)))

/-- R119, R61: while a frame is held without an acknowledge nothing changes, whatever the time; the frame's
length and channel show, the port reads it, no byte is consumed, and a step leaves it as it is. The
reader is then marked as stuck on the host (R251): exactly when CP.HOLD is selected, and after the
step again unless the next inputs bring an acknowledge or a reset. -/
def Obligations.HeldFrameStays : Prop :=
  ∀ (s : State) (ch : Nat) (c : Channel), s.chans[ch]? = some c →
    (∀ v e p q, exec (.cpHold ch v e p q) s = .next s) ∧
    (s.inp.rst = false → c.fr.st = .complete →
      ((s.chanIn ch).frameAck = false →
        ∃ v e p q, s.selected .reader ch = some (.cpHold ch v e p q)) ∧
      c.frameValid false = true ∧ (∀ n, c.frameLen ch n false = c.fr.len) ∧
      (∀ n, c.frameCh ch n false = c.chId) ∧ c.rxReady false = false ∧
      c.consumes false (s.chanIn ch) = false ∧
      (∀ n a, c.rdData ch n false a =
        if a.toNat < c.fr.len.toNat then memRead ch c a.toNat else 0) ∧
      ∀ (t : State) (c' : Channel), (s.chanIn ch).frameAck = false → step s = .next t →
        t.chans[ch]? = some c' →
        c'.fr = c.fr ∧ c'.buf = c.buf ∧ c'.strobes.frame = false ∧ c'.strobes.timeout = false ∧
          c'.strobes.overflow = false ∧
          (c'.stuck t.inp.rst (t.chanIn ch) = true ↔
            t.inp.rst = false ∧ (t.chanIn ch).frameAck = false)) ∧
    (c.stuck s.inp.rst (s.chanIn ch) = true ↔
      ∃ v e p q, s.selected .reader ch = some (.cpHold ch v e p q))

/-- R160, R157: with no reading, and before the phase has lasted its target, nothing changes. -/
def Obligations.PulseWaitsChangeNothing : Prop :=
  ∀ (s : State) (ch : Nat) (c : Channel), s.chans[ch]? = some c →
    (∀ d h, exec (.rtgNone ch d h) s = .next s) ∧
    (∀ h, exec (.tkWait ch h) s = .next s) ∧
    (s.inp.rst = false → (s.chanIn ch).rtValid = false →
      ∃ d h, s.selected .retarget ch = some (.rtgNone ch d h)) ∧
    (c.cfg.s0En = true →
      (elapsed s.now c.pg.phaseStart < c.pg.target.toNat ↔
        ∃ h, s.selected .tick ch = some (.tkWait ch h)))

/-! ### AwaitingStart -/

/-- R106: AS.ADV. That `mp` wraps at 7, where no state selects AS.ADV, is the model's choice (log entry 17). -/
def Obligations.AsAdvExtendsTheMatch : Prop :=
  ∀ (s : State) (ch : Nat) (c : Channel), s.chans[ch]? = some c →
    (∀ k, exec (.asAdv ch k) s =
      .next { s with
        chans := s.chans.set ch { c with fr := { c.fr with mp := c.fr.mp + 1 } } }) ∧
    (s.inp.rst = false → c.fr.st = .awaitingStart → (s.chanIn ch).rxValid = true →
      elapsed s.now c.fr.tRef ≤ c.cfg.timeoutMs →
      c.rxReady false = true ∧
      ((s.chanIn ch).rxData = (if c.fr.mp.toNat < 4 then 0x1B else 0x01) ∧ c.fr.mp ≠ 7 ↔
        ∃ k, s.selected .reader ch = some (.asAdv ch k)))

/-- R107: AS.START. That an offset the buffer does not have is not written, while the rest of the effect
happens, is the model's reading of R66 (log entry 8); only a configuration that R8 refuses has one here. -/
def Obligations.AsStartBeginsTheFrame : Prop :=
  ∀ (s : State) (ch : Nat) (c : Channel), s.chans[ch]? = some c →
    (∃ buf,
      (∀ k, exec (.asStart ch k) s =
        .next { s with
          chans := s.chans.set ch
            { c with
              buf := buf
              fr := { st := .readingBody, mp := 0, len := 8, trl := 0, tRef := s.now } } }) ∧
      ∀ off, Memory.read? buf off =
        if off < 8 ∧ off < c.cfg.bufCap then [0x1B, 0x1B, 0x1B, 0x1B, 0x01, 0x01, 0x01, 0x01][off]?
        else Memory.read? c.buf off) ∧
    (s.inp.rst = false → c.fr.st = .awaitingStart → (s.chanIn ch).rxValid = true →
      elapsed s.now c.fr.tRef ≤ c.cfg.timeoutMs →
      c.rxReady false = true ∧
      ((s.chanIn ch).rxData = 0x01 ∧ c.fr.mp = 7 ↔
        ∃ k, s.selected .reader ch = some (.asStart ch k)))

/-- R108: AS.MISS, the naive restart. -/
def Obligations.AsMissRestartsTheMatch : Prop :=
  ∀ (s : State) (ch : Nat) (c : Channel), s.chans[ch]? = some c →
    (∀ k q, exec (.asMiss ch k q) s =
      .next { s with
        chans := s.chans.set ch
          { c with
            fr := { c.fr with mp := if (s.chanIn ch).rxData = 0x1B then 1 else 0 } } }) ∧
    (s.inp.rst = false → c.fr.st = .awaitingStart → (s.chanIn ch).rxValid = true →
      elapsed s.now c.fr.tRef ≤ c.cfg.timeoutMs →
      c.rxReady false = true ∧
      ((s.chanIn ch).rxData ≠ (if c.fr.mp.toNat < 4 then 0x1B else 0x01) ↔
        ∃ k q, s.selected .reader ch = some (.asMiss ch k q)))

/-- R109, R114, R118, R121: in a timed state an expired timeout, and nothing else, selects the state's TMO
operation, whatever byte is presented; it raises FramingTimeout with the state left, returns to
AwaitingStart, and treats a presented byte as the first. -/
def Obligations.TimeoutRecovers : Prop :=
  ∀ (s : State) (ch : Nat) (c : Channel), s.chans[ch]? = some c →
    (∀ (i : Instr) (code : BitVec 3),
      ((∃ v k p q, i = .asTmo ch v k p q) ∧ code = 1 ∨
        (∃ v k p q, i = .rbTmo ch v k p q) ∧ code = 2 ∨
        (∃ v k p q, i = .rtTmo ch v k p q) ∧ code = 3) →
      exec i s =
        .next { s with
          chans := s.chans.set ch
            { c with
              fr := { st := .awaitingStart
                      mp := if (s.chanIn ch).rxValid = true ∧ (s.chanIn ch).rxData = 0x1B
                        then 1 else 0
                      len := 0
                      trl := 0
                      tRef := s.now }
              strobes := { c.strobes with timeout := true } }
          history := s.history ++
            [{ now := s.now, ch := ch, chId := c.chId, info := .framingTimeout code }] }) ∧
    (c.fr.st.timed = true → c.rxReady false = true) ∧
    (s.inp.rst = false →
      (c.fr.st = .awaitingStart → (elapsed s.now c.fr.tRef > c.cfg.timeoutS * 1000 ↔
        ∃ v k p q, s.selected .reader ch = some (.asTmo ch v k p q))) ∧
      (c.fr.st = .readingBody → (elapsed s.now c.fr.tRef > c.cfg.timeoutS * 1000 ↔
        ∃ v k p q, s.selected .reader ch = some (.rbTmo ch v k p q))) ∧
      (c.fr.st = .readingTrailer → (elapsed s.now c.fr.tRef > c.cfg.timeoutS * 1000 ↔
        ∃ v k p q, s.selected .reader ch = some (.rtTmo ch v k p q))))

/-! ### ReadingBody and ReadingTrailer -/

/-- R111: RB.OVF. -/
def Obligations.OverflowRecovers : Prop :=
  ∀ (s : State) (ch : Nat) (c : Channel), s.chans[ch]? = some c →
    (∀ k q, exec (.rbOvf ch k q) s =
      .next { s with
        chans := s.chans.set ch
          { c with
            fr := { st := .awaitingStart, mp := 0, len := 0, trl := 0, tRef := s.now }
            strobes := { c.strobes with overflow := true } }
        history := s.history ++
          [{ now := s.now, ch := ch, chId := c.chId, info := .bufferOverflow c.fr.len }] }) ∧
    (s.inp.rst = false → c.fr.st = .readingBody → (s.chanIn ch).rxValid = true →
      elapsed s.now c.fr.tRef ≤ c.cfg.timeoutMs →
      c.rxReady false = true ∧
      (c.fr.len.toNat + 1 + 3 > c.cfg.bufCap ↔
        ∃ k q, s.selected .reader ch = some (.rbOvf ch k q)))

/-- R112, R113: a body byte within the reserve is appended; it ends the body exactly when it leaves `END` as
the last five bytes. That with `len` at or past `BUF_CAP` the byte is not stored and the rest of the effect
happens is the model's reading of R66 (log entry 8), and that `len` then wraps at 0xFFFF its choice (log
entry 17). -/
def Obligations.BodyByteIsAppended : Prop :=
  ∀ (s : State) (ch : Nat) (c : Channel), s.chans[ch]? = some c →
    (∃ buf,
      (∀ k, exec (.rbApp ch k) s =
        .next { s with
          chans := s.chans.set ch
            { c with buf := buf, fr := { c.fr with len := c.fr.len + 1 } } }) ∧
      (∀ k, exec (.rbEnd ch k) s =
        .next { s with
          chans := s.chans.set ch
            { c with
              buf := buf
              fr := { c.fr with
                      st := .readingTrailer, len := c.fr.len + 1, trl := 0, tRef := s.now } } }) ∧
      ∀ off, Memory.read? buf off =
        if off = c.fr.len.toNat ∧ off < c.cfg.bufCap then some (s.chanIn ch).rxData
        else Memory.read? c.buf off) ∧
    (s.inp.rst = false → c.fr.st = .readingBody → (s.chanIn ch).rxValid = true →
      elapsed s.now c.fr.tRef ≤ c.cfg.timeoutMs → c.fr.len.toNat + 1 + 3 ≤ c.cfg.bufCap →
      4 ≤ c.fr.len.toNat →
      c.rxReady false = true ∧
      ((∀ n, n < 4 → memRead ch c (c.fr.len.toNat - 4 + n) = 0x1B) ∧
          (s.chanIn ch).rxData = 0x1A ↔
        ∃ k, s.selected .reader ch = some (.rbEnd ch k)) ∧
      (¬((∀ n, n < 4 → memRead ch c (c.fr.len.toNat - 4 + n) = 0x1B) ∧
          (s.chanIn ch).rxData = 0x1A) ↔
        ∃ k, s.selected .reader ch = some (.rbApp ch k)))

/-- R116, R117: the three trailer bytes are appended unvalidated; the third completes the frame. That with
`len` at or past `BUF_CAP`, which a block before its first reset can meet in ReadingTrailer, the byte is not
stored and the rest of the effect happens is the model's reading of R66 (log entry 8), and that `trl` wraps at
3 and `len` at 0xFFFF its choice (log entry 25). -/
def Obligations.TrailerByteIsAppended : Prop :=
  ∀ (s : State) (ch : Nat) (c : Channel), s.chans[ch]? = some c →
    (∃ buf,
      (∀ k p, exec (.rtApp ch k p) s =
        .next { s with
          chans := s.chans.set ch
            { c with
              buf := buf
              fr := { c.fr with len := c.fr.len + 1, trl := c.fr.trl + 1 } } }) ∧
      (∀ k p, exec (.rtLast ch k p) s =
        .next { s with
          chans := s.chans.set ch
            { c with
              buf := buf
              fr := { c.fr with
                      st := .complete, len := c.fr.len + 1, trl := 3, tRef := s.now } } }) ∧
      ∀ off, Memory.read? buf off =
        if off = c.fr.len.toNat ∧ off < c.cfg.bufCap then some (s.chanIn ch).rxData
        else Memory.read? c.buf off) ∧
    (s.inp.rst = false → c.fr.st = .readingTrailer → (s.chanIn ch).rxValid = true →
      elapsed s.now c.fr.tRef ≤ c.cfg.timeoutMs →
      c.rxReady false = true ∧
      (c.fr.trl = 2 ↔ ∃ k p, s.selected .reader ch = some (.rtLast ch k p)) ∧
      (c.fr.trl ≠ 2 ↔ ∃ k p, s.selected .reader ch = some (.rtApp ch k p))) ∧
    ∀ d : Channel, d.fr.st = .complete → d.rxReady false = false ∧ d.frameValid false = true

/-- R66, read for the states outside R34 as log entry 8 says: a storing operation writes nothing at an offset
the buffer does not have, and has the rest of its effect, R112, R113, R116 and R117 giving the registers; a
step answers no fault for it (R14). That `trl` wraps at 3 and `len` at 0xFFFF is the model's choice (log
entries 17 and 25). -/
def Obligations.StorePastTheBufferWritesNothing : Prop :=
  ∀ (s : State) (ch : Nat) (c : Channel), s.chans[ch]? = some c →
    (∀ (i : Instr) (t : State) (c' : Channel) (off : Nat), i.channel = ch → i.isReader = true →
      exec i s = .next t → t.chans[ch]? = some c' → c.cfg.bufCap ≤ off →
      Memory.read? c'.buf off = Memory.read? c.buf off) ∧
    (c.cfg.bufCap ≤ c.fr.len.toNat →
      (∀ k, exec (.rbApp ch k) s =
        .next { s with
          chans := s.chans.set ch { c with fr := { c.fr with len := c.fr.len + 1 } } }) ∧
      (∀ k, exec (.rbEnd ch k) s =
        .next { s with
          chans := s.chans.set ch
            { c with
              fr := { c.fr with
                      st := .readingTrailer, len := c.fr.len + 1, trl := 0, tRef := s.now } } }) ∧
      (∀ k p, exec (.rtApp ch k p) s =
        .next { s with
          chans := s.chans.set ch
            { c with fr := { c.fr with len := c.fr.len + 1, trl := c.fr.trl + 1 } } }) ∧
      ∀ k p, exec (.rtLast ch k p) s =
        .next { s with
          chans := s.chans.set ch
            { c with
              fr := { c.fr with
                      st := .complete, len := c.fr.len + 1, trl := 3, tRef := s.now } } })

/-! ### Complete -/

/-- R120: an acknowledge delivers the frame with a copy of its bytes and returns to AwaitingStart. -/
def Obligations.AcknowledgeDeliversTheFrame : Prop :=
  ∀ (s : State) (ch : Nat) (c : Channel), s.chans[ch]? = some c →
    (∀ v e p q, exec (.cpDlv ch v e p q) s =
      .next { s with
        chans := s.chans.set ch
          { c with
            fr := { st := .awaitingStart, mp := 0, len := 0, trl := 0, tRef := s.now }
            strobes := { c.strobes with frame := true } }
        history := s.history ++
          [{ now := s.now
             ch := ch
             chId := c.chId
             info := .frameReady c.fr.len
               ((List.range c.fr.len.toNat).map fun off => memRead ch c off) }] }) ∧
    (s.inp.rst = false → c.fr.st = .complete → (s.chanIn ch).frameAck = true →
      c.rxReady false = false ∧ c.consumes false (s.chanIn ch) = false ∧
      ∃ v e p q, s.selected .reader ch = some (.cpDlv ch v e p q)) ∧
    (c.toAwait s.now).frameValid false = false ∧ (c.toAwait s.now).rxReady false = true

/-- R58, R76: in Complete the buffer below `len` is the start marker, a payload of `len - 16` bytes, the end
marker and three bytes; the port reads exactly these bytes. -/
def Obligations.HeldFrameLayout : Prop :=
  ∀ (ch : Nat) (c : Channel), c.Inv → c.fr.st = .complete →
    ∃ (payload : List Byte) (f c1 c2 : Byte),
      payload.length + 16 = c.fr.len.toNat ∧ payloadSlice (frameBytes ch c) = payload ∧
      frameBytes ch c = [0x1B, 0x1B, 0x1B, 0x1B, 0x01, 0x01, 0x01, 0x01] ++ payload ++
        [0x1B, 0x1B, 0x1B, 0x1B, 0x1A] ++ [f, c1, c2] ∧
      ∀ (n : Nat) (a : BitVec 16), a.toNat < c.fr.len.toNat →
        some (c.rdData ch n false a) = (frameBytes ch c)[a.toNat]?

/-! ### The pulse generator -/

/-- R151: IdleFor, exactly: the long default when degenerate, 0 when the numerator is not positive, else the
floor of the quotient. -/
def Obligations.IdleForIsTheExactFloor : Prop :=
  ∀ (dflt : Nat) (cfg : ChannelConfig) (power : BitVec 32) (pk : Int),
    pk = power.toInt * (cfg.ppkwh : Int) →
    (pk ≤ 1000 → idleFor dflt cfg power = (dflt, true)) ∧
    (1000 < pk → 3600000000 ≤ pk * (cfg.activeMs : Int) → idleFor dflt cfg power = (0, false)) ∧
    (1000 < pk → pk * (cfg.activeMs : Int) < 3600000000 →
      ∃ v : Nat, idleFor dflt cfg power = (v, false) ∧
        (v : Int) * (pk - 1000) ≤ 3600000000 - pk * (cfg.activeMs : Int) ∧
        3600000000 - pk * (cfg.activeMs : Int) < ((v : Int) + 1) * (pk - 1000) ∧
        (1 ≤ cfg.activeMs → v < 3600000000))

/-- R165: in a legal configuration every value IdleFor returns is below 3600000000 or the long default, and
fits its 32-bit registers. -/
def Obligations.IdleForStaysInRange : Prop :=
  ∀ (dflt : Nat) (cfg : ChannelConfig) (power : BitVec 32), cfg.legal = true →
    dflt ≤ 4294967295 →
    ((idleFor dflt cfg power).1 ≤ 3599999999 ∨ (idleFor dflt cfg power).1 = dflt) ∧
      (BitVec.ofNat 32 (idleFor dflt cfg power).1).toNat = (idleFor dflt cfg power).1

/-- R152, R153: a non-degenerate reading retimes the running idle phase in place, or, during a pulse, is
kept for after it. -/
def Obligations.ReadingRetargets : Prop :=
  ∀ (s : State) (ch : Nat) (c : Channel) (v : BitVec 32), s.chans[ch]? = some c →
    v = BitVec.ofNat 32 (idleFor s.idleDefaultMs c.cfg (s.chanIn ch).rtPower).1 →
    (exec (.rtgI ch) s =
      .next { s with
        chans := s.chans.set ch
          { c with
            pg := { c.pg with idleMs := v, target := v }
            strobes := { c.strobes with retarget := true } }
        history := s.history ++
          [{ now := s.now, ch := ch, chId := c.chId
             info := .retargeted (s.chanIn ch).rtPower v }] }) ∧
    (exec (.rtgA ch) s =
      .next { s with
        chans := s.chans.set ch
          { c with
            pg := { c.pg with idleMs := v }
            strobes := { c.strobes with retarget := true } }
        history := s.history ++
          [{ now := s.now, ch := ch, chId := c.chId
             info := .retargeted (s.chanIn ch).rtPower v }] }) ∧
    (s.inp.rst = false → (s.chanIn ch).rtValid = true →
      (c.pg.phase = .idle → ((s.chanIn ch).rtPower.toInt * (c.cfg.ppkwh : Int) > 1000 ↔
        s.selected .retarget ch = some (.rtgI ch))) ∧
      (c.pg.phase = .active → ((s.chanIn ch).rtPower.toInt * (c.cfg.ppkwh : Int) > 1000 ↔
        s.selected .retarget ch = some (.rtgA ch))))

/-- R154, R155: a degenerate reading (zero and every negative one among them) sets the long default, at once
or after the running pulse. -/
def Obligations.DegenerateReadingSetsTheLongIdle : Prop :=
  ∀ (s : State) (ch : Nat) (c : Channel), s.chans[ch]? = some c →
    (exec (.rtgDgi ch) s =
      .next { s with
        chans := s.chans.set ch
          { c with
            pg := { c.pg with idleMs := BitVec.ofNat 32 s.idleDefaultMs
                              target := BitVec.ofNat 32 s.idleDefaultMs }
            strobes := { c.strobes with degenerate := true } }
        history := s.history ++
          [{ now := s.now, ch := ch, chId := c.chId
             info := .degeneratePulseRate (s.chanIn ch).rtPower }] }) ∧
    (exec (.rtgDga ch) s =
      .next { s with
        chans := s.chans.set ch
          { c with
            pg := { c.pg with idleMs := BitVec.ofNat 32 s.idleDefaultMs }
            strobes := { c.strobes with degenerate := true } }
        history := s.history ++
          [{ now := s.now, ch := ch, chId := c.chId
             info := .degeneratePulseRate (s.chanIn ch).rtPower }] }) ∧
    (s.inp.rst = false → (s.chanIn ch).rtValid = true →
      (c.pg.phase = .idle → ((s.chanIn ch).rtPower.toInt * (c.cfg.ppkwh : Int) ≤ 1000 ↔
        s.selected .retarget ch = some (.rtgDgi ch))) ∧
      (c.pg.phase = .active → ((s.chanIn ch).rtPower.toInt * (c.cfg.ppkwh : Int) ≤ 1000 ↔
        s.selected .retarget ch = some (.rtgDga ch))) ∧
      ((s.chanIn ch).rtPower.toInt ≤ 0 →
        (s.chanIn ch).rtPower.toInt * (c.cfg.ppkwh : Int) ≤ 1000))

/-- R156, R158, R159: the tick forces a disabled output low, and otherwise starts or ends the pulse once the
phase has lasted its target. -/
def Obligations.TickFlipsThePhase : Prop :=
  ∀ (s : State) (ch : Nat) (c : Channel), s.chans[ch]? = some c →
    (∀ h x, exec (.tkDis ch h x) s =
      .next { s with
        chans := s.chans.set ch { c with pg := { c.pg with pulseOut := false } } }) ∧
    (exec (.tkRise ch) s =
      .next { s with
        chans := s.chans.set ch
          { c with
            pg := { c.pg with phase := .active, pulseOut := true, phaseStart := s.now
                              target := BitVec.ofNat 32 c.cfg.activeMs } } }) ∧
    (exec (.tkFall ch) s =
      .next { s with
        chans := s.chans.set ch
          { c with
            pg := { c.pg with phase := .idle, pulseOut := false, phaseStart := s.now
                              target := c.pg.idleMs } } }) ∧
    (c.cfg.s0En = false ↔ ∃ h x, s.selected .tick ch = some (.tkDis ch h x)) ∧
    (c.cfg.s0En = true → c.pg.phase = .idle →
      (elapsed s.now c.pg.phaseStart ≥ c.pg.target.toNat ↔
        s.selected .tick ch = some (.tkRise ch))) ∧
    (c.cfg.s0En = true → c.pg.phase = .active →
      (elapsed s.now c.pg.phaseStart ≥ c.pg.target.toNat ↔
        s.selected .tick ch = some (.tkFall ch)))

/-- R161: a reading in PG.Idle takes effect in its own cycle: the idle phase ends now if it has already
lasted the new duration, and otherwise goes on with it. -/
def Obligations.RetargetInIdleTakesEffectAtOnce : Prop :=
  ∀ (s t : State) (ch : Nat) (c c' : Channel) (v : Nat), s.legal = true → step s = .next t →
    s.chans[ch]? = some c → t.chans[ch]? = some c' → s.inp.rst = false → c.cfg.s0En = true →
    c.pg.phase = .idle → (s.chanIn ch).rtValid = true →
    v = (idleFor s.idleDefaultMs c.cfg (s.chanIn ch).rtPower).1 →
    (v ≤ elapsed s.now c.pg.phaseStart →
      c'.pg = { phase := .active, phaseStart := s.now, target := BitVec.ofNat 32 c.cfg.activeMs
                idleMs := BitVec.ofNat 32 v, pulseOut := true }) ∧
    (elapsed s.now c.pg.phaseStart < v →
      c'.pg = { c.pg with target := BitVec.ofNat 32 v, idleMs := BitVec.ofNat 32 v })

/-- R162: a reading in Active never truncates the pulse: before its target it goes on unchanged, and the idle
phase after it takes the new duration. -/
def Obligations.RetargetInActiveNeverTruncates : Prop :=
  ∀ (s t : State) (ch : Nat) (c c' : Channel) (v : BitVec 32), step s = .next t →
    s.chans[ch]? = some c → t.chans[ch]? = some c' → s.inp.rst = false → c.cfg.s0En = true →
    c.pg.phase = .active → (s.chanIn ch).rtValid = true →
    v = BitVec.ofNat 32 (idleFor s.idleDefaultMs c.cfg (s.chanIn ch).rtPower).1 →
    (elapsed s.now c.pg.phaseStart < c.pg.target.toNat → c'.pg = { c.pg with idleMs := v }) ∧
    (c.pg.target.toNat ≤ elapsed s.now c.pg.phaseStart →
      c'.pg = { phase := .idle, phaseStart := s.now, target := v, idleMs := v, pulseOut := false })

/-- R187, R156: in disabled mode a step forces the output low and does no phase accounting, while a reading
still raises its event. -/
def Obligations.DisabledChannelNeverPulses : Prop :=
  ∀ (s t : State) (ch : Nat) (c c' : Channel), step s = .next t → s.chans[ch]? = some c →
    t.chans[ch]? = some c' → s.inp.rst = false → c.cfg.s0En = false →
    c'.pg.pulseOut = false ∧ c'.pg.phase = c.pg.phase ∧ c'.pg.phaseStart = c.pg.phaseStart ∧
      (((s.chanIn ch).rtValid = true) ↔
        (c'.strobes.retarget = true ∨ c'.strobes.degenerate = true))

/-- R163: with one cycle at every millisecond and no reading, a pulse lasts exactly `A` ms, the idle phase
after it exactly `max(v, 1)` ms, and the next pulse rises then. -/
def Obligations.PulseTrainTiming : Prop :=
  ∀ (s : State) (ch : Nat) (c : Channel), s.chans[ch]? = some c → c.cfg.legal = true →
    c.cfg.s0En = true → c.pg.phase = .active → c.pg.pulseOut = true → c.pg.phaseStart = s.now →
    c.pg.target = BitVec.ofNat 32 c.cfg.activeMs →
    ∀ n, n ≤ c.cfg.activeMs + max c.pg.idleMs.toNat 1 →
      ∃ t c', pulseRun ch n s = .next t ∧ t.chans[ch]? = some c' ∧
        (n < c.cfg.activeMs → c'.pg.phase = .active ∧ c'.pg.pulseOut = true) ∧
        (c.cfg.activeMs ≤ n → n < c.cfg.activeMs + max c.pg.idleMs.toNat 1 →
          c'.pg.phase = .idle ∧ c'.pg.pulseOut = false) ∧
        (n = c.cfg.activeMs + max c.pg.idleMs.toNat 1 →
          c'.pg = { c.pg with phaseStart := s.now + BitVec.ofNat 32 n })

/-- R168: after a reset cycle, with no reading and one cycle at every millisecond, the output is low for
`IDLE_DEFAULT_MS` ms and then rises. -/
def Obligations.StartupStaysLow : Prop :=
  ∀ (s : State) (ch : Nat) (c : Channel), s.chans[ch]? = some c → s.legal = true →
    c.cfg.s0En = true →
    c.pg = { phase := .idle, phaseStart := s.now, target := BitVec.ofNat 32 s.idleDefaultMs
             idleMs := BitVec.ofNat 32 s.idleDefaultMs, pulseOut := false } →
    ∀ n, n ≤ s.idleDefaultMs → ∃ t c', pulseRun ch n s = .next t ∧ t.chans[ch]? = some c' ∧
      c'.pg.pulseOut = decide (n = s.idleDefaultMs) ∧
      (c'.pg.phase = .active ↔ n = s.idleDefaultMs)

/-! ### Whole-machine rules -/

/-- R123, R135: the state register and the timeout reference change only as the transition table says. -/
def Obligations.TransitionTable : Prop :=
  (∀ (i : Instr) (s t : State) (c c' : Channel), exec i s = .next t →
    s.chans[i.channel]? = some c → t.chans[i.channel]? = some c' →
    c'.fr.st = i.goesTo c.fr.st ∧
      c'.fr.tRef = if i.writesTRef = true then s.now else c.fr.tRef) ∧
  ∀ (s : State) (ch : Nat) (c : Channel) (i : Instr), s.chans[ch]? = some c →
    s.selected .reader ch = some i →
    i.startsIn c.fr.st ∧ i.channel = ch ∧
      (s.inp.rst = true ↔ ∃ st v k e p q, i = .rdReset ch st v k e p q)

/-- R150, R158, R159: `phase` changes only in TK.RISE, TK.FALL and PG.RESET. -/
def Obligations.PhaseChangesOnlyOnTicksAndReset : Prop :=
  ∀ (i : Instr) (s t : State) (j : Nat) (d d' : Channel), exec i s = .next t →
    s.chans[j]? = some d → t.chans[j]? = some d' → d'.pg.phase ≠ d.pg.phase →
    j = i.channel ∧ i.writesPhase = true

/-- R51: the buffer is written only by AS.START, RB.APP, RB.END, RT.APP and RT.LAST. -/
def Obligations.OnlyStoringOperationsWriteTheBuffer : Prop :=
  ∀ (i : Instr) (s t : State) (j : Nat) (d d' : Channel), exec i s = .next t →
    s.chans[j]? = some d → t.chans[j]? = some d' → d'.buf ≠ d.buf →
    j = i.channel ∧ i.storesBytes = true

/-- R28, R242: a byte that is not consumed (none presented, or `rx_ready = 0`) has no effect: the frame
reader does the same whatever `rx_data` is. -/
def Obligations.UnconsumedByteHasNoEffect : Prop :=
  ∀ (s s' : State) (ch : Nat) (c : Channel) (b : Byte), s.chans[ch]? = some c →
    s' = { s with inp := s'.inp } → s'.inp.rst = s.inp.rst → s'.inp.nowMs = s.inp.nowMs →
    s'.chanIn ch = { s.chanIn ch with rxData := b } →
    c.consumes s.inp.rst (s.chanIn ch) = false →
    (∀ t, runStage .reader ch s = .next t →
      runStage .reader ch s' = .next { t with inp := s'.inp }) ∧
    ∀ f, runStage .reader ch s = .fault f → runStage .reader ch s' = .fault f

/-- R207, R132, R204: a step only appends to the history: for each channel in increasing index at most one
frame-reader event and then at most one pulse-generator event, with this cycle's time. -/
def Obligations.EventsOfAStep : Prop :=
  ∀ s t : State, step s = .next t →
    ∃ new : Nat → List EventRecord,
      t.history = s.history ++ (List.range s.numCh).flatMap new ∧
      ∀ (ch : Nat) (c : Channel), s.chans[ch]? = some c →
        (∀ r ∈ new ch, r.ch = ch ∧ r.chId = c.chId ∧ r.now = s.now) ∧
        ∃ a b, new ch = a ++ b ∧ a.length ≤ 1 ∧ b.length ≤ 1 ∧
          (∀ r ∈ a, r.info.code = 1 ∨ r.info.code = 2 ∨ r.info.code = 3) ∧
          ∀ r ∈ b, r.info.code = 4 ∨ r.info.code = 5

/-- R200: after a step a channel's strobe, as State holds it (log entry 14), is 1 exactly if the step appended a record of its event for that
channel. -/
def Obligations.StrobeShowsTheEvent : Prop :=
  ∀ (s t : State) (ch : Nat) (c' : Channel), step s = .next t → t.chans[ch]? = some c' →
    (c'.strobes.frame = true ↔
      ∃ r ∈ t.history.drop s.history.length, r.ch = ch ∧ r.info.code = 1) ∧
    (c'.strobes.timeout = true ↔
      ∃ r ∈ t.history.drop s.history.length, r.ch = ch ∧ r.info.code = 2) ∧
    (c'.strobes.overflow = true ↔
      ∃ r ∈ t.history.drop s.history.length, r.ch = ch ∧ r.info.code = 3) ∧
    (c'.strobes.retarget = true ↔
      ∃ r ∈ t.history.drop s.history.length, r.ch = ch ∧ r.info.code = 4) ∧
    (c'.strobes.degenerate = true ↔
      ∃ r ∈ t.history.drop s.history.length, r.ch = ch ∧ r.info.code = 5)

/-- R27, R28, R29, R55, R232, R233: the outputs of the cycle a step runs; before the first cycle with
`rst = 1` they are draws (log entry 21). -/
def Obligations.OutputsOfACycle : Prop :=
  ∀ (s t : State) (ch : Nat) (c c' : Channel), s.chans[ch]? = some c → t.chans[ch]? = some c' →
    ∃ o, cycleOutputs s t ch = some o ∧
      (s.wasReset = false → s.inp.rst = false → o = ChanOut.drawn ch s.cycle) ∧
      (s.wasReset = true ∨ s.inp.rst = true →
        (o.rxReady = true ↔ s.inp.rst = false ∧
          (c.fr.st = .awaitingStart ∨ c.fr.st = .readingBody ∨ c.fr.st = .readingTrailer)) ∧
        (o.frameValid = true ↔ s.inp.rst = false ∧ c.fr.st = .complete) ∧
        (o.frameValid = true → o.frameLen = c.fr.len ∧ o.frameCh = c.chId ∧
          ((s.chanIn ch).rdAddr.toNat < c.fr.len.toNat →
            o.rdData = memRead ch c (s.chanIn ch).rdAddr.toNat) ∧
          (c.fr.len.toNat ≤ (s.chanIn ch).rdAddr.toNat → o.rdData = 0)) ∧
        o.pulseOut = c.pg.pulseOut ∧ o.strobes = c'.strobes)

/-! ### Frames -/

/-- The frame of the operations that change nothing but registers of the frame reader: RD.RESET, AS.ADV,
AS.MISS, and the six that change nothing at all. -/
def Obligations.FrameOfRegisterOperations : Prop :=
  ∀ (i : Instr) (s t : State) (ch : Nat) (c : Channel), i.channel = ch → s.chans[ch]? = some c →
    ((∃ st v k e p q, i = .rdReset ch st v k e p q) ∨ (∃ k, i = .asAdv ch k) ∨
      (∃ k q, i = .asMiss ch k q) ∨ i.holds = true) →
    exec i s = .next t →
    ∃ c', t.chans[ch]? = some c' ∧ s.SameOutside t ch ∧ s.SameBytes t ch none ∧
      t.history = s.history ∧ c' = { c with fr := c'.fr } ∧
      ((∃ k, i = .asAdv ch k) ∨ (∃ k q, i = .asMiss ch k q) →
        c'.fr = { c.fr with mp := c'.fr.mp }) ∧
      (i.holds = true → c'.fr = c.fr)

/-- The frame of the operations that store: AS.START, RB.APP, RB.END, RT.APP, RT.LAST. Every byte outside the
stored ones reads as before. -/
def Obligations.FrameOfStoringOperations : Prop :=
  ∀ (i : Instr) (s t : State) (ch : Nat) (c : Channel), i.channel = ch → s.chans[ch]? = some c →
    i.storesBytes = true → exec i s = .next t →
    ∃ c', t.chans[ch]? = some c' ∧ s.SameOutside t ch ∧ s.SameBytes t ch (i.stores c) ∧
      t.history = s.history ∧ c' = { c with fr := c'.fr, buf := c'.buf } ∧
      ((∃ k, i = .rbApp ch k) → c'.fr = { c.fr with len := c'.fr.len }) ∧
      ((∃ k p, i = .rtApp ch k p) → c'.fr = { c.fr with len := c'.fr.len, trl := c'.fr.trl }) ∧
      ((∃ k, i = .rbEnd ch k) ∨ (∃ k p, i = .rtLast ch k p) → c'.fr.mp = c.fr.mp)

/-- The frame of the frame reader's operations that raise an event: AS.TMO, RB.TMO, RT.TMO, RB.OVF, CP.DLV. No
byte of any buffer changes, and no register of the pulse generator. -/
def Obligations.FrameOfReaderEvents : Prop :=
  ∀ (i : Instr) (s t : State) (ch : Nat) (c : Channel), i.channel = ch → s.chans[ch]? = some c →
    i.raises = true → i.isReader = true → exec i s = .next t →
    ∃ c' e, t.chans[ch]? = some c' ∧ s.SameOutside t ch ∧ s.SameBytes t ch none ∧
      t.history = s.history ++ [{ now := s.now, ch := ch, chId := c.chId, info := e }] ∧
      c' = { c with fr := c'.fr, strobes := c.strobes.assert e }

/-- The frame of the pulse generator's operations: PG.RESET, the retargets and the ticks. No byte of any
buffer and no register of the frame reader changes. -/
def Obligations.FrameOfPulseOperations : Prop :=
  ∀ (i : Instr) (s t : State) (ch : Nat) (c : Channel), i.channel = ch → s.chans[ch]? = some c →
    i.isReader = false → exec i s = .next t →
    ∃ c', t.chans[ch]? = some c' ∧ s.SameOutside t ch ∧ s.SameBytes t ch none ∧
      c' = { c with pg := c'.pg, strobes := c'.strobes } ∧
      (i.raises = false → t.history = s.history ∧ c'.strobes = c.strobes) ∧
      (i.raises = true → ∃ e, t.history = s.history ++
          [{ now := s.now, ch := ch, chId := c.chId, info := e }] ∧
        c'.strobes = c.strobes.assert e ∧
        c'.pg = { c.pg with target := c'.pg.target, idleMs := c'.pg.idleMs }) ∧
      (i = .rtgA ch ∨ i = .rtgDga ch → c'.pg.target = c.pg.target) ∧
      (i = .tkRise ch ∨ i = .tkFall ch → c'.pg.idleMs = c.pg.idleMs) ∧
      ((∃ h x, i = .tkDis ch h x) → c'.pg = { c.pg with pulseOut := c'.pg.pulseOut })

/-! ### Properties of streams -/

/-- R125: an occurrence of the start marker consumed in AwaitingStart is recognised exactly from match
position 0 or 4 to 7, and missed, leaving `mp = 0`, from 1 to 3. -/
def Obligations.StartRecognition : Prop :=
  ∀ (s : State) (ch : Nat) (c : Channel) (as : List Arrival), s.chans[ch]? = some c →
    c.cfg.legal = true → c.fr.st = .awaitingStart →
    as.map (fun a => a.byte) = [0x1B, 0x1B, 0x1B, 0x1B, 0x01, 0x01, 0x01, 0x01] →
    NoTimeout ch as s →
    ∃ t c', feed ch as s = .next t ∧ t.chans[ch]? = some c' ∧ t.history = s.history ∧
      (c.fr.mp = 0 ∨ 4 ≤ c.fr.mp.toNat → c'.fr.st = .readingBody ∧ c'.fr.len = 8) ∧
      (1 ≤ c.fr.mp.toNat → c.fr.mp.toNat ≤ 3 → c'.fr.st = .awaitingStart ∧ c'.fr.mp = 0)

/-- R125: a run of `r` bytes 1B from match position 0 leaves match position `((r - 1) mod 4) + 1`. -/
def Obligations.RunOfMarkerBytes : Prop :=
  ∀ (s : State) (ch : Nat) (c : Channel) (as : List Arrival), s.chans[ch]? = some c →
    c.fr.st = .awaitingStart → c.fr.mp = 0 → (∀ a ∈ as, a.byte = 0x1B) → as ≠ [] →
    NoTimeout ch as s →
    ∃ t c', feed ch as s = .next t ∧ t.chans[ch]? = some c' ∧ c'.fr.st = .awaitingStart ∧
      c'.fr.mp.toNat = (as.length - 1) % 4 + 1

/-- R127: the match position is truthful: if it says the bytes consumed so far end in that much of the start
marker, it still does after one more byte, and AS.START comes only when they end in all of it. -/
def Obligations.NoFalseStart : Prop :=
  ∀ (s t : State) (ch : Nat) (c c' : Channel) (seen : List Byte) (a : Arrival),
    s.chans[ch]? = some c → c.fr.st = .awaitingStart →
    startMarker.take c.fr.mp.toNat <:+ seen → (s.presenting ch a).expired ch = false →
    runStage .reader ch (s.presenting ch a) = .next t → t.chans[ch]? = some c' →
    (c'.fr.st = .awaitingStart → startMarker.take c'.fr.mp.toNat <:+ seen ++ [a.byte]) ∧
    (c'.fr.st = .readingBody → startMarker <:+ seen ++ [a.byte]) ∧
    (c'.fr.st = .awaitingStart ∨ c'.fr.st = .readingBody)

/-- R128: the end marker is found only from `len = 13` on, after the start marker, and exactly: the last five
bytes are then `END`. -/
def Obligations.EndDetectionNeverOverlapsTheStart : Prop :=
  ∀ (s t : State) (ch : Nat) (c c' : Channel), s.chans[ch]? = some c → c.cfg.legal = true →
    c.Inv → s.inp.rst = false → c.fr.st = .readingBody → runStage .reader ch s = .next t →
    t.chans[ch]? = some c' → c'.fr.st = .readingTrailer →
    13 ≤ c'.fr.len.toNat ∧ Memory.Holds c'.buf (c'.fr.len.toNat - 5) endMarker

/-- Framing correctness (R129), for a stream that presents one byte in every successive cycle with nothing
else asserted; R129 itself also allows cycles with no byte or with an ignored `frame_ack` between the
bytes. -/
def Obligations.FramingCorrectness : Prop :=
  ∀ (s : State) (ch : Nat) (c : Channel) (as : List Arrival) (payload : List Byte)
    (f c1 c2 : Byte),
    s.chans[ch]? = some c → c.cfg.legal = true → c.fr.st = .awaitingStart →
    ¬(1 ≤ c.fr.mp.toNat ∧ c.fr.mp.toNat ≤ 3) →
    as.map (fun a => a.byte) = startMarker ++ payload ++ endMarker ++ [f, c1, c2] →
    ¬endMarker <:+: payload → 8 + payload.length + 5 + 3 ≤ c.cfg.bufCap → NoTimeout ch as s →
    ∃ t c', feed ch as s = .next t ∧ t.chans[ch]? = some c' ∧ t.history = s.history ∧
      c'.fr.st = .complete ∧ c'.fr.len.toNat = 16 + payload.length ∧
      frameBytes ch c' = startMarker ++ payload ++ endMarker ++ [f, c1, c2] ∧
      (∀ m u d, m < as.length → feed ch (as.take m) s = .next u → u.chans[ch]? = some d →
        d.fr.st ≠ .complete) ∧
      ∀ v e p q, ∃ u d, exec (.cpDlv ch v e p q) t = .next u ∧ u.chans[ch]? = some d ∧
        d.fr.st = .awaitingStart ∧
        u.history = s.history ++
          [{ now := t.now
             ch := ch
             chId := c.chId
             info := .frameReady (BitVec.ofNat 16 (16 + payload.length))
               (startMarker ++ payload ++ endMarker ++ [f, c1, c2]) }]

/-- R130: with no end marker before it, the byte that arrives with `len = C - 3` overflows: the `C - 10`-th
after the start marker. -/
def Obligations.OverflowThreshold : Prop :=
  ∀ (s : State) (ch : Nat) (c : Channel) (as : List Arrival) (body : List Byte) (last : Arrival),
    s.chans[ch]? = some c → c.cfg.legal = true → c.fr.st = .awaitingStart →
    ¬(1 ≤ c.fr.mp.toNat ∧ c.fr.mp.toNat ≤ 3) →
    as.map (fun a => a.byte) = startMarker ++ body → body.length + 11 = c.cfg.bufCap →
    ¬endMarker <:+: body → NoTimeout ch (as ++ [last]) s →
    ∃ t c', feed ch (as ++ [last]) s = .next t ∧ t.chans[ch]? = some c' ∧
      c'.fr = { st := .awaitingStart, mp := 0, len := 0, trl := 0, tRef := last.now } ∧
      t.history = s.history ++
        [{ now := last.now, ch := ch, chId := c.chId
           info := .bufferOverflow (BitVec.ofNat 16 (c.cfg.bufCap - 3)) }]

/-- R133, R134, R210, with the host duty R240 on the two times: a timed state that has lasted more than `T_MS`
ms is left in this step, across a wrap of `now_ms` too: the reader is back in AwaitingStart with the
reference at this time, and FramingTimeout is raised. -/
def Obligations.TimeoutBoundsRecovery : Prop :=
  ∀ (s t : State) (ch : Nat) (c c' : Channel) (t0 t1 : Nat), step s = .next t →
    s.chans[ch]? = some c → t.chans[ch]? = some c' → s.inp.rst = false → c.fr.st.timed = true →
    TrueTimes c.fr.tRef s.now t0 t1 → t1 - t0 > c.cfg.timeoutS * 1000 →
    c'.fr.st = .awaitingStart ∧ c'.fr.tRef = s.now ∧ c'.fr.mp.toNat ≤ 1 ∧
      c'.strobes.timeout = true

/-! ### Stimulus scripts -/

/-- R87: FRAME sends the frame's `16 + m` bytes, one a millisecond, with nothing else asserted. That `now_ms`
is the time modulo 2^32 is the model's choice (log entry 19), and so is that a list of inputs of one
channel stands for inputs 0 on every other (log entry 20). -/
def Obligations.FrameScriptSendsItsBytes : Prop :=
  ∀ (time : Nat) (payload : List Byte) (f c1 c2 : Byte),
    scriptCycles [.frame time payload f c1 c2] =
      some (((startMarker ++ payload ++ endMarker ++ [f, c1, c2]).zipIdx).map fun x =>
        { rst := false
          nowMs := BitVec.ofNat 32 (time + x.2)
          chans := [{ ChanIn.idle with rxValid := true, rxData := x.1 }] })
end

