-- ==== Sys2Proof/Laws/State.lean ====
section
/-! SUPPORT. What each update of the state leaves in each field, one lemma per field per update, so that
no later proof unfolds a record update. -/

namespace Sys2Proof.Machine

@[simp] theorem State.setChannel_idleDefaultMs (s : State) (ch : Nat) (c : Channel) :
    (s.setChannel ch c).idleDefaultMs = s.idleDefaultMs := rfl

@[simp] theorem State.setChannel_chans (s : State) (ch : Nat) (c : Channel) :
    (s.setChannel ch c).chans = s.chans.set ch c := rfl

@[simp] theorem State.setChannel_history (s : State) (ch : Nat) (c : Channel) :
    (s.setChannel ch c).history = s.history := rfl

@[simp] theorem State.setChannel_inp (s : State) (ch : Nat) (c : Channel) :
    (s.setChannel ch c).inp = s.inp := rfl

@[simp] theorem State.setChannel_script (s : State) (ch : Nat) (c : Channel) :
    (s.setChannel ch c).script = s.script := rfl

@[simp] theorem State.setChannel_cycle (s : State) (ch : Nat) (c : Channel) :
    (s.setChannel ch c).cycle = s.cycle := rfl

@[simp] theorem State.setChannel_wasReset (s : State) (ch : Nat) (c : Channel) :
    (s.setChannel ch c).wasReset = s.wasReset := rfl

@[simp] theorem State.setChannel_now (s : State) (ch : Nat) (c : Channel) :
    (s.setChannel ch c).now = s.now := rfl

@[simp] theorem State.setChannel_chanIn (s : State) (ch : Nat) (c : Channel) (j : Nat) :
    (s.setChannel ch c).chanIn j = s.chanIn j := rfl

@[simp] theorem State.raise_idleDefaultMs (s : State) (ch : Nat) (c : Channel) (e : EventInfo) :
    (s.raise ch c e).idleDefaultMs = s.idleDefaultMs := rfl

@[simp] theorem State.raise_chans (s : State) (ch : Nat) (c : Channel) (e : EventInfo) :
    (s.raise ch c e).chans = s.chans.set ch { c with strobes := c.strobes.assert e } := rfl

@[simp] theorem State.raise_history (s : State) (ch : Nat) (c : Channel) (e : EventInfo) :
    (s.raise ch c e).history = s.history ++ [{ now := s.now, ch := ch, chId := c.chId, info := e }] := rfl

@[simp] theorem State.raise_inp (s : State) (ch : Nat) (c : Channel) (e : EventInfo) :
    (s.raise ch c e).inp = s.inp := rfl

@[simp] theorem State.raise_script (s : State) (ch : Nat) (c : Channel) (e : EventInfo) :
    (s.raise ch c e).script = s.script := rfl

@[simp] theorem State.raise_cycle (s : State) (ch : Nat) (c : Channel) (e : EventInfo) :
    (s.raise ch c e).cycle = s.cycle := rfl

@[simp] theorem State.raise_wasReset (s : State) (ch : Nat) (c : Channel) (e : EventInfo) :
    (s.raise ch c e).wasReset = s.wasReset := rfl

@[simp] theorem State.raise_now (s : State) (ch : Nat) (c : Channel) (e : EventInfo) :
    (s.raise ch c e).now = s.now := rfl

@[simp] theorem State.raise_chanIn (s : State) (ch : Nat) (c : Channel) (e : EventInfo) (j : Nat) :
    (s.raise ch c e).chanIn j = s.chanIn j := rfl

@[simp] theorem State.clearStrobes_idleDefaultMs (s : State) :
    s.clearStrobes.idleDefaultMs = s.idleDefaultMs := rfl

@[simp] theorem State.clearStrobes_chans (s : State) :
    s.clearStrobes.chans = s.chans.map fun c => { c with strobes := Strobes.none } := rfl

@[simp] theorem State.clearStrobes_history (s : State) :
    s.clearStrobes.history = s.history := rfl

@[simp] theorem State.clearStrobes_inp (s : State) :
    s.clearStrobes.inp = s.inp := rfl

@[simp] theorem State.clearStrobes_script (s : State) :
    s.clearStrobes.script = s.script := rfl

@[simp] theorem State.clearStrobes_cycle (s : State) :
    s.clearStrobes.cycle = s.cycle := rfl

@[simp] theorem State.clearStrobes_wasReset (s : State) :
    s.clearStrobes.wasReset = s.wasReset := rfl

@[simp] theorem State.clearStrobes_now (s : State) :
    s.clearStrobes.now = s.now := rfl

@[simp] theorem State.clearStrobes_chanIn (s : State) (j : Nat) :
    s.clearStrobes.chanIn j = s.chanIn j := rfl

@[simp] theorem Channel.toAwait_cfg (c : Channel) (now : Time) :
    (c.toAwait now).cfg = c.cfg := rfl

@[simp] theorem Channel.toAwait_buf (c : Channel) (now : Time) :
    (c.toAwait now).buf = c.buf := rfl

@[simp] theorem Channel.toAwait_pg (c : Channel) (now : Time) :
    (c.toAwait now).pg = c.pg := rfl

@[simp] theorem Channel.toAwait_strobes (c : Channel) (now : Time) :
    (c.toAwait now).strobes = c.strobes := rfl

@[simp] theorem Channel.toAwait_chId (c : Channel) (now : Time) :
    (c.toAwait now).chId = c.chId := rfl

@[simp] theorem Channel.toAwait_fr_st (c : Channel) (now : Time) :
    (c.toAwait now).fr.st = .awaitingStart := rfl

@[simp] theorem Channel.toAwait_fr_mp (c : Channel) (now : Time) :
    (c.toAwait now).fr.mp = 0 := rfl

@[simp] theorem Channel.toAwait_fr_len (c : Channel) (now : Time) :
    (c.toAwait now).fr.len = 0 := rfl

@[simp] theorem Channel.toAwait_fr_trl (c : Channel) (now : Time) :
    (c.toAwait now).fr.trl = 0 := rfl

@[simp] theorem Channel.toAwait_fr_tRef (c : Channel) (now : Time) :
    (c.toAwait now).fr.tRef = now := rfl

@[simp] theorem Channel.advanceMatch_cfg (c : Channel) :
    c.advanceMatch.cfg = c.cfg := rfl

@[simp] theorem Channel.advanceMatch_buf (c : Channel) :
    c.advanceMatch.buf = c.buf := rfl

@[simp] theorem Channel.advanceMatch_pg (c : Channel) :
    c.advanceMatch.pg = c.pg := rfl

@[simp] theorem Channel.advanceMatch_strobes (c : Channel) :
    c.advanceMatch.strobes = c.strobes := rfl

@[simp] theorem Channel.advanceMatch_chId (c : Channel) :
    c.advanceMatch.chId = c.chId := rfl

@[simp] theorem Channel.advanceMatch_fr_st (c : Channel) :
    c.advanceMatch.fr.st = c.fr.st := rfl

@[simp] theorem Channel.advanceMatch_fr_mp (c : Channel) :
    c.advanceMatch.fr.mp = c.fr.mp + 1 := rfl

@[simp] theorem Channel.advanceMatch_fr_len (c : Channel) :
    c.advanceMatch.fr.len = c.fr.len := rfl

@[simp] theorem Channel.advanceMatch_fr_trl (c : Channel) :
    c.advanceMatch.fr.trl = c.fr.trl := rfl

@[simp] theorem Channel.advanceMatch_fr_tRef (c : Channel) :
    c.advanceMatch.fr.tRef = c.fr.tRef := rfl

@[simp] theorem Channel.missMatch_cfg (c : Channel) (b : Byte) :
    (c.missMatch b).cfg = c.cfg := rfl

@[simp] theorem Channel.missMatch_buf (c : Channel) (b : Byte) :
    (c.missMatch b).buf = c.buf := rfl

@[simp] theorem Channel.missMatch_pg (c : Channel) (b : Byte) :
    (c.missMatch b).pg = c.pg := rfl

@[simp] theorem Channel.missMatch_strobes (c : Channel) (b : Byte) :
    (c.missMatch b).strobes = c.strobes := rfl

@[simp] theorem Channel.missMatch_chId (c : Channel) (b : Byte) :
    (c.missMatch b).chId = c.chId := rfl

@[simp] theorem Channel.missMatch_fr_st (c : Channel) (b : Byte) :
    (c.missMatch b).fr.st = c.fr.st := rfl

@[simp] theorem Channel.missMatch_fr_mp (c : Channel) (b : Byte) :
    (c.missMatch b).fr.mp = if b = startByte 0 then 1 else 0 := rfl

@[simp] theorem Channel.missMatch_fr_len (c : Channel) (b : Byte) :
    (c.missMatch b).fr.len = c.fr.len := rfl

@[simp] theorem Channel.missMatch_fr_trl (c : Channel) (b : Byte) :
    (c.missMatch b).fr.trl = c.fr.trl := rfl

@[simp] theorem Channel.missMatch_fr_tRef (c : Channel) (b : Byte) :
    (c.missMatch b).fr.tRef = c.fr.tRef := rfl

@[simp] theorem memWrite_cfg (c : Channel) (off : Nat) (bs : List Byte) :
    (memWrite c off bs).cfg = c.cfg := rfl

@[simp] theorem memWrite_fr (c : Channel) (off : Nat) (bs : List Byte) :
    (memWrite c off bs).fr = c.fr := rfl

@[simp] theorem memWrite_pg (c : Channel) (off : Nat) (bs : List Byte) :
    (memWrite c off bs).pg = c.pg := rfl

@[simp] theorem memWrite_strobes (c : Channel) (off : Nat) (bs : List Byte) :
    (memWrite c off bs).strobes = c.strobes := rfl

@[simp] theorem memWrite_chId (c : Channel) (off : Nat) (bs : List Byte) :
    (memWrite c off bs).chId = c.chId := rfl

@[simp] theorem Channel.append_cfg (c : Channel) (b : Byte) :
    (c.append b).cfg = c.cfg := rfl

@[simp] theorem Channel.append_pg (c : Channel) (b : Byte) :
    (c.append b).pg = c.pg := rfl

@[simp] theorem Channel.append_strobes (c : Channel) (b : Byte) :
    (c.append b).strobes = c.strobes := rfl

@[simp] theorem Channel.append_chId (c : Channel) (b : Byte) :
    (c.append b).chId = c.chId := rfl

@[simp] theorem Channel.append_fr_st (c : Channel) (b : Byte) :
    (c.append b).fr.st = c.fr.st := rfl

@[simp] theorem Channel.append_fr_mp (c : Channel) (b : Byte) :
    (c.append b).fr.mp = c.fr.mp := rfl

@[simp] theorem Channel.append_fr_trl (c : Channel) (b : Byte) :
    (c.append b).fr.trl = c.fr.trl := rfl

@[simp] theorem Channel.append_fr_tRef (c : Channel) (b : Byte) :
    (c.append b).fr.tRef = c.fr.tRef := rfl

@[simp] theorem Channel.append_fr_len (c : Channel) (b : Byte) :
    (c.append b).fr.len = c.fr.len + 1 := rfl

@[simp] theorem Channel.startFrame_cfg (c : Channel) (now : Time) :
    (c.startFrame now).cfg = c.cfg := rfl

@[simp] theorem Channel.startFrame_pg (c : Channel) (now : Time) :
    (c.startFrame now).pg = c.pg := rfl

@[simp] theorem Channel.startFrame_strobes (c : Channel) (now : Time) :
    (c.startFrame now).strobes = c.strobes := rfl

@[simp] theorem Channel.startFrame_chId (c : Channel) (now : Time) :
    (c.startFrame now).chId = c.chId := rfl

@[simp] theorem Channel.startFrame_fr (c : Channel) (now : Time) :
    (c.startFrame now).fr =
      { st := .readingBody, mp := 0, len := 8, trl := 0, tRef := now } := rfl

end Sys2Proof.Machine
end

