-- ==== Sys2Proof/Laws/Memory.lean ====
section
/-! SUPPORT. The laws of the frame buffer: a read after a write, what a write leaves alone, and that every
write keeps the canonical form and the bound. -/

namespace Sys2Proof.Machine

@[simp] theorem Memory.read?_nil (a : Nat) : Memory.read? [] a = none := rfl

/-- A read after a write. -/
theorem Memory.read?_write (m : List Host.Cell) (a : Nat) (b : Byte) (x : Nat) :
    Memory.read? (Memory.write m a b) x = if x = a then some b else Memory.read? m x := by
  induction m with
  | nil => simp [Memory.write, Memory.read?]
  | cons y rest ih =>
    by_cases h1 : a < y.1
    · simp [Memory.write, h1, Memory.read?]
    · by_cases h2 : a = y.1
      · subst h2
        by_cases h3 : x = y.1 <;> simp [Memory.write, Memory.read?, h3]
      · simp only [Memory.write, h1, h2, if_false, Memory.read?, ih]
        by_cases h3 : x = y.1
        · subst h3; simp [Ne.symm h2]
        · simp [h3]

/-- A read of the byte just written. -/
@[simp] theorem Memory.read?_write_same (m : List Host.Cell) (a : Nat) (b : Byte) :
    Memory.read? (Memory.write m a b) a = some b := by simp [Memory.read?_write]

/-- A write leaves every other place alone. -/
theorem Memory.read?_write_other {m : List Host.Cell} {a x : Nat} {b : Byte} (h : x ≠ a) :
    Memory.read? (Memory.write m a b) x = Memory.read? m x := by simp [Memory.read?_write, h]

/-- The addresses listed after a write. -/
theorem Memory.mem_write {m : List Host.Cell} {a : Nat} {b : Byte} {x : Host.Cell}
    (h : x ∈ Memory.write m a b) : x.1 = a ∨ x ∈ m := by
  induction m with
  | nil => simp [Memory.write] at h; simp [h]
  | cons y rest ih =>
    simp only [Memory.write] at h
    split at h
    · rcases List.mem_cons.1 h with rfl | h
      · exact .inl rfl
      · exact .inr h
    · split at h
      · rcases List.mem_cons.1 h with rfl | h
        · exact .inl rfl
        · exact .inr (List.mem_cons_of_mem _ h)
      · rcases List.mem_cons.1 h with rfl | h
        · exact .inr List.mem_cons_self
        · exact (ih h).imp_right (List.mem_cons_of_mem _)

/-- A write keeps the canonical form. -/
theorem Memory.wf_write {m : List Host.Cell} (a : Nat) (b : Byte) (h : Memory.wf m) :
    Memory.wf (Memory.write m a b) := by
  induction m with
  | nil => simp [Memory.write, Memory.wf]
  | cons y rest ih =>
    obtain ⟨hy, hr⟩ := List.pairwise_cons.1 h
    simp only [Memory.write]
    split
    · rename_i hlt
      refine List.pairwise_cons.2 ⟨?_, h⟩
      intro x hx
      rcases List.mem_cons.1 hx with rfl | hx
      · exact hlt
      · exact Nat.lt_trans hlt (hy x hx)
    · split
      · rename_i heq
        exact List.pairwise_cons.2 ⟨fun x hx => heq ▸ hy x hx, hr⟩
      · rename_i h1 h2
        refine List.pairwise_cons.2 ⟨?_, ih hr⟩
        intro x hx
        rcases Memory.mem_write hx with hxa | hx
        · omega
        · exact hy x hx

/-- A read after a write of several bytes. -/
theorem Memory.read?_writeList (m : List Host.Cell) (a : Nat) (bs : List Byte) (x : Nat) :
    Memory.read? (Memory.writeList m a bs) x =
      if a ≤ x ∧ x < a + bs.length then bs[x - a]? else Memory.read? m x := by
  induction bs generalizing m a with
  | nil => simp [Memory.writeList]
  | cons b rest ih =>
    simp only [Memory.writeList, ih, Memory.read?_write, List.length_cons]
    by_cases hx : x = a
    · subst hx; simp
    · by_cases h1 : a + 1 ≤ x ∧ x < a + 1 + rest.length
      · have h2 : a ≤ x ∧ x < a + (rest.length + 1) := by omega
        have h3 : x - a = (x - (a + 1)) + 1 := by omega
        simp [h1, h2, h3]
      · have h2 : ¬(a ≤ x ∧ x < a + (rest.length + 1)) := by omega
        rw [if_neg h1, if_neg hx, if_neg h2]

/-- Writing several bytes keeps the canonical form. -/
theorem Memory.wf_writeList {m : List Host.Cell} (a : Nat) (bs : List Byte) (h : Memory.wf m) :
    Memory.wf (Memory.writeList m a bs) := by
  induction bs generalizing m a with
  | nil => exact h
  | cons b rest ih => exact ih (a + 1) (Memory.wf_write a b h)

/-- The addresses listed after several writes. -/
theorem Memory.mem_writeList {m : List Host.Cell} {a : Nat} {bs : List Byte} {x : Host.Cell}
    (h : x ∈ Memory.writeList m a bs) : (a ≤ x.1 ∧ x.1 < a + bs.length) ∨ x ∈ m := by
  induction bs generalizing m a with
  | nil => exact .inr h
  | cons b rest ih =>
    rcases ih h with h | h
    · exact .inl (by simp only [List.length_cons]; omega)
    · rcases Memory.mem_write h with h | h
      · exact .inl (by simp only [List.length_cons]; omega)
      · exact .inr h

/-- A write within the buffer. -/
theorem memWrite_eq {c : Channel} {off : Nat} {bs : List Byte} (h : off + bs.length ≤ c.cfg.bufCap) :
    memWrite c off bs = { c with buf := Memory.writeList c.buf off bs } := by
  rw [memWrite, List.take_of_length_le (by omega)]

/-- A write that starts past the buffer writes nothing. -/
theorem memWrite_past {c : Channel} {off : Nat} (bs : List Byte) (h : c.cfg.bufCap ≤ off) :
    memWrite c off bs = c := by
  rw [memWrite, Nat.sub_eq_zero_of_le h]; rfl

/-- Every byte after a write: the one written, if it is within the buffer, else the one before. -/
theorem memWrite_read? (c : Channel) (off : Nat) (bs : List Byte) (x : Nat) :
    Memory.read? (memWrite c off bs).buf x =
      if off ≤ x ∧ x < off + bs.length ∧ x < c.cfg.bufCap then bs[x - off]?
      else Memory.read? c.buf x := by
  simp only [memWrite, Memory.read?_writeList, List.length_take, List.getElem?_take]
  split <;> split <;> first | rfl | (split <;> first | rfl | omega) | omega

/-- A write keeps the canonical form and the bound. -/
theorem memWrite_bufferOk {c : Channel} (off : Nat) (bs : List Byte) (hb : c.BufferOk) :
    (memWrite c off bs).BufferOk := by
  refine ⟨Memory.wf_writeList off _ hb.1, fun x hx => ?_⟩
  rcases Memory.mem_writeList hx with h | h
  · have := h.2
    simp only [List.length_take] at this
    simp only [memWrite_cfg]
    omega
  · exact hb.2 x h

end Sys2Proof.Machine
end

