-- ==== Sys2Proof/Laws/Pulse.lean ====
section
/-! SUPPORT. What each retarget update of a channel leaves in each field, one lemma per field. -/

namespace Sys2Proof.Machine

@[simp] theorem Channel.retargetIdle_cfg (c : Channel) (v : Nat) :
    (c.retargetIdle v).cfg = c.cfg := rfl

@[simp] theorem Channel.retargetIdle_fr (c : Channel) (v : Nat) :
    (c.retargetIdle v).fr = c.fr := rfl

@[simp] theorem Channel.retargetIdle_buf (c : Channel) (v : Nat) :
    (c.retargetIdle v).buf = c.buf := rfl

@[simp] theorem Channel.retargetIdle_strobes (c : Channel) (v : Nat) :
    (c.retargetIdle v).strobes = c.strobes := rfl

@[simp] theorem Channel.retargetIdle_chId (c : Channel) (v : Nat) :
    (c.retargetIdle v).chId = c.chId := rfl

@[simp] theorem Channel.retargetIdle_pg_phase (c : Channel) (v : Nat) :
    (c.retargetIdle v).pg.phase = c.pg.phase := rfl

@[simp] theorem Channel.retargetIdle_pg_phaseStart (c : Channel) (v : Nat) :
    (c.retargetIdle v).pg.phaseStart = c.pg.phaseStart := rfl

@[simp] theorem Channel.retargetIdle_pg_target (c : Channel) (v : Nat) :
    (c.retargetIdle v).pg.target = BitVec.ofNat 32 v := rfl

@[simp] theorem Channel.retargetIdle_pg_idleMs (c : Channel) (v : Nat) :
    (c.retargetIdle v).pg.idleMs = BitVec.ofNat 32 v := rfl

@[simp] theorem Channel.retargetIdle_pg_pulseOut (c : Channel) (v : Nat) :
    (c.retargetIdle v).pg.pulseOut = c.pg.pulseOut := rfl

@[simp] theorem Channel.retargetActive_cfg (c : Channel) (v : Nat) :
    (c.retargetActive v).cfg = c.cfg := rfl

@[simp] theorem Channel.retargetActive_fr (c : Channel) (v : Nat) :
    (c.retargetActive v).fr = c.fr := rfl

@[simp] theorem Channel.retargetActive_buf (c : Channel) (v : Nat) :
    (c.retargetActive v).buf = c.buf := rfl

@[simp] theorem Channel.retargetActive_strobes (c : Channel) (v : Nat) :
    (c.retargetActive v).strobes = c.strobes := rfl

@[simp] theorem Channel.retargetActive_chId (c : Channel) (v : Nat) :
    (c.retargetActive v).chId = c.chId := rfl

@[simp] theorem Channel.retargetActive_pg_phase (c : Channel) (v : Nat) :
    (c.retargetActive v).pg.phase = c.pg.phase := rfl

@[simp] theorem Channel.retargetActive_pg_phaseStart (c : Channel) (v : Nat) :
    (c.retargetActive v).pg.phaseStart = c.pg.phaseStart := rfl

@[simp] theorem Channel.retargetActive_pg_target (c : Channel) (v : Nat) :
    (c.retargetActive v).pg.target = c.pg.target := rfl

@[simp] theorem Channel.retargetActive_pg_idleMs (c : Channel) (v : Nat) :
    (c.retargetActive v).pg.idleMs = BitVec.ofNat 32 v := rfl

@[simp] theorem Channel.retargetActive_pg_pulseOut (c : Channel) (v : Nat) :
    (c.retargetActive v).pg.pulseOut = c.pg.pulseOut := rfl

end Sys2Proof.Machine
end

