-- ==== Sys2Proof/Laws/Ops.lean ====
section
/-! SUPPORT. What each shared operation can do, said once: outcomes chained, an operation on a channel, and
the procedures of the frame reader. -/

namespace Sys2Proof.Machine

/-! ### Outcomes -/

@[simp] theorem chain_next {α β : Type} (a : α) (k : α → Result β) : chain (.next a) k = k a := rfl

@[simp] theorem chain_fault {α β : Type} (f : Fault) (k : α → Result β) :
    chain (.fault f) k = .fault f := rfl

@[simp] theorem chain_refused {α β : Type} (r : Refusal) (k : α → Result β) :
    chain (.refused r) k = .refused r := rfl

/-- A chain answers a next state exactly through a next state of its first part. -/
theorem chain_eq_next {α β : Type} {x : Result α} {k : α → Result β} {b : β} :
    chain x k = .next b ↔ ∃ a, x = .next a ∧ k a = .next b := by
  cases x <;> simp

/-- A chain of chains. -/
theorem chain_assoc {α β γ : Type} (x : Result α) (k : α → Result β) (l : β → Result γ) :
    chain (chain x k) l = chain x fun a => chain (k a) l := by
  cases x <;> rfl

/-! ### Channels -/

/-- An operation on a channel that exists. -/
theorem onChannel_some {s : State} {ch : Nat} {c : Channel} (h : s.chans[ch]? = some c)
    (k : Channel → ChanIn → Result State) : onChannel ch s k = k c (s.chanIn ch) := by
  simp [onChannel, h]

/-- An operation on a channel that does not exist. -/
theorem onChannel_none {s : State} {ch : Nat} (h : s.chans[ch]? = none)
    (k : Channel → ChanIn → Result State) : onChannel ch s k = .refused (.noSuchChannel ch) := by
  simp [onChannel, h]

/-- An operation on a channel answers a next state only if the channel exists. -/
theorem onChannel_eq_next {s t : State} {ch : Nat} {k : Channel → ChanIn → Result State} :
    onChannel ch s k = .next t ↔ ∃ c, s.chans[ch]? = some c ∧ k c (s.chanIn ch) = .next t := by
  unfold onChannel
  cases s.chans[ch]? <;> simp

/-- Holding a channel that exists changes nothing. -/
theorem holdChannel_some {s : State} {ch : Nat} {c : Channel} (h : s.chans[ch]? = some c) :
    holdChannel ch s = .next s := onChannel_some h _

/-- Holding a channel changes nothing. -/
theorem holdChannel_eq_next {s t : State} {ch : Nat} :
    holdChannel ch s = .next t ↔ (∃ c, s.chans[ch]? = some c) ∧ t = s := by
  rw [holdChannel, onChannel_eq_next]
  constructor
  · rintro ⟨c, hc, h⟩
    injection h with h
    exact ⟨⟨c, hc⟩, h.symm⟩
  · rintro ⟨⟨c, hc⟩, rfl⟩
    exact ⟨c, hc, rfl⟩

/-- The channel set, read back. -/
theorem chans_set_same {s : State} {ch : Nat} {c : Channel} (h : s.chans[ch]? = some c)
    (c' : Channel) : (s.chans.set ch c')[ch]? = some c' := by
  obtain ⟨hlt, _⟩ := List.getElem?_eq_some_iff.1 h
  simp [hlt]

/-- Every other channel, after one is set. -/
theorem chans_set_other {s : State} {ch j : Nat} (h : j ≠ ch) (c' : Channel) :
    (s.chans.set ch c')[j]? = s.chans[j]? := by
  simp [Ne.symm h]

/-! ### Procedures of the frame reader -/

/-- The first byte of the start marker. -/
@[simp] theorem startByte_zero : startByte 0#3 = 0x1B#8 := rfl

/-- `startFrame` within the buffer. -/
theorem startFrame_eq {c : Channel} (now : Time) (h : 8 ≤ c.cfg.bufCap) :
    c.startFrame now =
      { c with
        buf := Memory.writeList c.buf 0 startMarker
        fr := { st := .readingBody, mp := 0, len := 8, trl := 0, tRef := now } } := by
  rw [Channel.startFrame, memWrite_eq (by simpa [startMarker] using h)]

/-- `append` within the buffer. -/
theorem append_eq {c : Channel} (b : Byte) (h : c.fr.len.toNat < c.cfg.bufCap) :
    c.append b =
      { c with
        buf := Memory.write c.buf c.fr.len.toNat b
        fr := { c.fr with len := c.fr.len + 1 } } := by
  rw [Channel.append, memWrite_eq (by simpa using h)]; rfl

/-- `append` past the buffer stores nothing. -/
theorem append_past {c : Channel} (b : Byte) (h : c.cfg.bufCap ≤ c.fr.len.toNat) :
    c.append b = { c with fr := { c.fr with len := c.fr.len + 1 } } := by
  rw [Channel.append, memWrite_past _ h]

/-- Every byte after an append. -/
theorem append_read? (c : Channel) (b : Byte) (x : Nat) :
    Memory.read? (c.append b).buf x =
      if x = c.fr.len.toNat ∧ x < c.cfg.bufCap then some b else Memory.read? c.buf x := by
  have h := memWrite_read? c c.fr.len.toNat [b] x
  rw [show (c.append b).buf = (memWrite c c.fr.len.toNat [b]).buf from rfl, h]
  by_cases hx : x = c.fr.len.toNat
  · subst hx; simp
  · have h1 : ¬(c.fr.len.toNat ≤ x ∧ x < c.fr.len.toNat + [b].length ∧ x < c.cfg.bufCap) := by
      simp only [List.length_singleton]; omega
    rw [if_neg h1, if_neg fun h => hx h.1]

/-- Every byte after `startFrame`. -/
theorem startFrame_read? (c : Channel) (now : Time) (x : Nat) :
    Memory.read? (c.startFrame now).buf x =
      if x < 8 ∧ x < c.cfg.bufCap then startMarker[x]? else Memory.read? c.buf x := by
  refine (memWrite_read? c 0 startMarker x).trans ?_
  simp [startMarker]

/-- An append keeps the canonical form and the bound. -/
theorem append_bufferOk {c : Channel} (b : Byte) (h : c.BufferOk) : (c.append b).BufferOk :=
  memWrite_bufferOk c.fr.len.toNat [b] h

/-- `startFrame` keeps the canonical form and the bound. -/
theorem startFrame_bufferOk {c : Channel} (now : Time) (h : c.BufferOk) :
    (c.startFrame now).BufferOk :=
  memWrite_bufferOk 0 startMarker h

/-- ASByte against `mp = 0`: it only advances or misses. -/
theorem asByte_mp_zero {c : Channel} (now : Time) (b : Byte) (h : c.fr.mp = 0) :
    c.asByte now b = { c with fr := { c.fr with mp := if b = 0x1B then 1 else 0 } } := by
  unfold Channel.asByte
  rw [h]
  by_cases hb : b = 0x1B
  · subst hb
    simp [Channel.advanceMatch, h]
  · have hb' : ¬ b = startByte 0 := hb
    rw [if_neg hb']
    rfl

/-- The channel a timeout leaves: ToAwait, then the presented byte against `mp = 0`. -/
def Channel.afterTimeout (c : Channel) (now : Time) (i : ChanIn) : Channel :=
  { c with
    fr := { st := .awaitingStart, mp := if i.rxValid = true ∧ i.rxData = 0x1B then 1 else 0,
            len := 0, trl := 0, tRef := now } }

/-- What `takeTimeout` does on a channel that exists. -/
theorem takeTimeout_eq {s : State} {ch : Nat} {c : Channel} (left : FrState)
    (h : s.chans[ch]? = some c) :
    takeTimeout left ch s =
      .next (s.raise ch (c.afterTimeout s.now (s.chanIn ch)) (.framingTimeout left.code)) := by
  rw [takeTimeout, onChannel_some h]
  cases hv : (s.chanIn ch).rxValid
  · simp [Channel.toAwait, Channel.afterTimeout, hv]
  · simp only [if_true, asByte_mp_zero _ _ (Channel.toAwait_fr_mp c s.now)]
    simp [Channel.toAwait, Channel.afterTimeout, hv]

/-- `takeTimeout` answers a next state only that way. -/
theorem takeTimeout_next {s t : State} {ch : Nat} {left : FrState}
    (h : takeTimeout left ch s = .next t) :
    ∃ c, s.chans[ch]? = some c ∧
      t = s.raise ch (c.afterTimeout s.now (s.chanIn ch)) (.framingTimeout left.code) := by
  obtain ⟨c, hc, -⟩ := onChannel_eq_next.1 h
  rw [takeTimeout_eq left hc] at h
  injection h with h
  exact ⟨c, hc, h.symm⟩

end Sys2Proof.Machine
end

