-- ==== Sys2Proof/Laws/Exec.lean ====
section
/-! SUPPORT. Every operation, said once: what it makes of its own channel from that channel, its inputs, the
time and `IDLE_DEFAULT_MS`, with the event it raises (`effect`), and that `exec` is exactly that
(`exec_eq_effect`). Frames, invariants and independence follow from it. -/

namespace Sys2Proof.Machine

/-- What an operation reads besides its own channel. -/
structure Sampled where
  idleDefaultMs : Nat
  now : Time
  inp : ChanIn

/-- What a state offers channel `ch`'s operations this cycle. -/
def State.sampled (s : State) (ch : Nat) : Sampled :=
  { idleDefaultMs := s.idleDefaultMs, now := s.now, inp := s.chanIn ch }

@[simp] theorem State.sampled_idleDefaultMs (s : State) (ch : Nat) :
    (s.sampled ch).idleDefaultMs = s.idleDefaultMs := rfl

@[simp] theorem State.sampled_now (s : State) (ch : Nat) : (s.sampled ch).now = s.now := rfl

@[simp] theorem State.sampled_inp (s : State) (ch : Nat) : (s.sampled ch).inp = s.chanIn ch := rfl

/-- What an operation makes of its channel, and the event it raises. -/
def effect (i : Instr) (e : Sampled) (c : Channel) : Result (Channel × Option EventInfo) :=
  match i with
  | .rdReset _ _ _ _ _ _ _ => .next (c.toAwait e.now, none)
  | .rdIdle _ _ _ _ _ _ => .fault (.unreachableState c.chId 0)
  | .rdRsv5 _ _ _ _ _ _ => .fault (.unreachableState c.chId 5)
  | .rdRsv67 _ _ _ _ _ _ _ => .fault (.unreachableState c.chId c.fr.st.code)
  | .asWait _ _ _ _ => .next (c, none)
  | .asAdv _ _ => .next (c.advanceMatch, none)
  | .asStart _ _ => .next (c.startFrame e.now, none)
  | .asMiss _ _ _ => .next (c.missMatch e.inp.rxData, none)
  | .asTmo _ _ _ _ _ =>
    .next (c.afterTimeout e.now e.inp, some (.framingTimeout FrState.awaitingStart.code))
  | .rbWait _ _ _ _ => .next (c, none)
  | .rbOvf _ _ _ => .next (c.toAwait e.now, some (.bufferOverflow c.fr.len))
  | .rbApp _ _ => .next (c.append e.inp.rxData, none)
  | .rbEnd _ _ =>
    let c' := c.append e.inp.rxData
    .next ({ c' with fr := { c'.fr with st := .readingTrailer, trl := 0, tRef := e.now } }, none)
  | .rbTmo _ _ _ _ _ =>
    .next (c.afterTimeout e.now e.inp, some (.framingTimeout FrState.readingBody.code))
  | .rtWait _ _ _ _ => .next (c, none)
  | .rtApp _ _ _ =>
    let c' := c.append e.inp.rxData
    .next ({ c' with fr := { c'.fr with trl := c'.fr.trl + 1 } }, none)
  | .rtLast _ _ _ =>
    let c' := c.append e.inp.rxData
    .next ({ c' with fr := { c'.fr with st := .complete, trl := 3, tRef := e.now } }, none)
  | .rtTmo _ _ _ _ _ =>
    .next (c.afterTimeout e.now e.inp, some (.framingTimeout FrState.readingTrailer.code))
  | .cpHold _ _ _ _ _ => .next (c, none)
  | .cpDlv ch _ _ _ _ => .next (c.toAwait e.now, some (.frameReady c.fr.len (frameBytes ch c)))
  | .pgReset _ _ _ _ =>
    .next ({ c with
             pg := { phase := .idle, phaseStart := e.now, pulseOut := false
                     target := BitVec.ofNat 32 e.idleDefaultMs
                     idleMs := BitVec.ofNat 32 e.idleDefaultMs } }, none)
  | .rtgNone _ _ _ => .next (c, none)
  | .rtgI _ =>
    let v := (idleFor e.idleDefaultMs c.cfg e.inp.rtPower).1
    .next (c.retargetIdle v, some (.retargeted e.inp.rtPower (BitVec.ofNat 32 v)))
  | .rtgA _ =>
    let v := (idleFor e.idleDefaultMs c.cfg e.inp.rtPower).1
    .next (c.retargetActive v, some (.retargeted e.inp.rtPower (BitVec.ofNat 32 v)))
  | .rtgDgi _ =>
    .next (c.retargetIdle e.idleDefaultMs, some (.degeneratePulseRate e.inp.rtPower))
  | .rtgDga _ =>
    .next (c.retargetActive e.idleDefaultMs, some (.degeneratePulseRate e.inp.rtPower))
  | .tkDis _ _ _ => .next ({ c with pg := { c.pg with pulseOut := false } }, none)
  | .tkWait _ _ => .next (c, none)
  | .tkRise _ =>
    .next ({ c with
             pg := { c.pg with phase := .active, pulseOut := true, phaseStart := e.now,
                               target := BitVec.ofNat 32 c.cfg.activeMs } }, none)
  | .tkFall _ =>
    .next ({ c with
             pg := { c.pg with phase := .idle, pulseOut := false, phaseStart := e.now,
                               target := c.pg.idleMs } }, none)

/-- A channel and the event it raised, put back into the block. -/
def State.commit (s : State) (ch : Nat) (r : Channel × Option EventInfo) : State :=
  match r.2 with
  | none => s.setChannel ch r.1
  | some e => s.raise ch r.1 e

/-- Setting a channel to what it is changes nothing. -/
theorem setChannel_self {s : State} {ch : Nat} {c : Channel} (h : s.chans[ch]? = some c) :
    s.setChannel ch c = s := by
  obtain ⟨hlt, hg⟩ := List.getElem?_eq_some_iff.1 h
  have : s.chans.set ch c = s.chans := by rw [← hg]; exact List.set_getElem_self hlt
  simp [State.setChannel, this]

/-- `exec` on a channel that exists is `effect`, committed. -/
theorem exec_eq_effect (i : Instr) {s : State} {c : Channel} (h : s.chans[i.channel]? = some c) :
    exec i s =
      chain (effect i (s.sampled i.channel) c) fun r => .next (s.commit i.channel r) := by
  cases i <;> simp only [Instr.channel] at h <;>
    simp only [exec, Instr.channel, effect, chain_next, chain_fault, State.commit,
      State.sampled, execRdReset, execRdIdle, execRdRsv5, execRdRsv67, execAsWait, execAsAdv,
      execAsStart, execAsMiss, execAsTmo, execRbWait, execRbOvf, execRbApp, execRbEnd, execRbTmo,
      execRtWait, execRtApp, execRtLast, execRtTmo, execCpHold, execCpDlv, execPgReset,
      execRtgNone, execRtgI, execRtgA, execRtgDgi, execRtgDga, execTkDis, execTkWait, execTkRise,
      execTkFall, unreachable, takeOverflow, takeTimeout_eq _ h, holdChannel_some h,
      onChannel_some h, setChannel_self h]

/-- `exec` on a channel that does not exist is refused. -/
theorem exec_noSuchChannel (i : Instr) {s : State} (h : s.chans[i.channel]? = none) :
    exec i s = .refused (.noSuchChannel i.channel) := by
  cases i <;> simp only [Instr.channel] at h ⊢ <;>
    simp only [exec, execRdReset, execRdIdle, execRdRsv5, execRdRsv67, execAsWait, execAsAdv,
      execAsStart, execAsMiss, execAsTmo, execRbWait, execRbOvf, execRbApp, execRbEnd, execRbTmo,
      execRtWait, execRtApp, execRtLast, execRtTmo, execCpHold, execCpDlv, execPgReset,
      execRtgNone, execRtgI, execRtgA, execRtgDgi, execRtgDga, execTkDis, execTkWait, execTkRise,
      execTkFall, unreachable, takeOverflow, takeTimeout, holdChannel, onChannel_none h]

/-- An operation answers a next state only through its effect on its own channel. -/
theorem exec_next {i : Instr} {s t : State} (h : exec i s = .next t) :
    ∃ c r, s.chans[i.channel]? = some c ∧ effect i (s.sampled i.channel) c = .next r ∧
      t = s.commit i.channel r := by
  cases hc : s.chans[i.channel]? with
  | none => rw [exec_noSuchChannel i hc] at h; cases h
  | some c =>
    rw [exec_eq_effect i hc] at h
    obtain ⟨r, hr, ht⟩ := chain_eq_next.1 h
    injection ht with ht
    exact ⟨c, r, rfl, hr, ht.symm⟩

/-- An effect keeps the configuration. -/
theorem effect_cfg {i : Instr} {e : Sampled} {c : Channel} {r : Channel × Option EventInfo}
    (h : effect i e c = .next r) : r.1.cfg = c.cfg := by
  cases i <;> simp only [effect] at h <;>
    first
    | (injection h with h; subst h; rfl)
    | cases h

/-- An operation whose state code is not an unentered one's has an effect, in every channel (00_scope.md
R14: no other fault exists). -/
theorem effect_total {i : Instr} (h : ∀ st, i.startsIn st → st.unentered = false) (e : Sampled)
    (c : Channel) : ∃ r, effect i e c = .next r := by
  cases i <;> first | exact ⟨_, rfl⟩ | exact absurd (h _ rfl) (by decide) |
    exact absurd (h .reserved6 (.inl rfl)) (by decide)

/-! ### What a commit leaves -/

@[simp] theorem State.commit_idleDefaultMs (s : State) (ch : Nat) (r : Channel × Option EventInfo) :
    (s.commit ch r).idleDefaultMs = s.idleDefaultMs := by
  unfold State.commit; split <;> rfl

@[simp] theorem State.commit_inp (s : State) (ch : Nat) (r : Channel × Option EventInfo) :
    (s.commit ch r).inp = s.inp := by
  unfold State.commit; split <;> rfl

@[simp] theorem State.commit_script (s : State) (ch : Nat) (r : Channel × Option EventInfo) :
    (s.commit ch r).script = s.script := by
  unfold State.commit; split <;> rfl

@[simp] theorem State.commit_cycle (s : State) (ch : Nat) (r : Channel × Option EventInfo) :
    (s.commit ch r).cycle = s.cycle := by
  unfold State.commit; split <;> rfl

@[simp] theorem State.commit_wasReset (s : State) (ch : Nat) (r : Channel × Option EventInfo) :
    (s.commit ch r).wasReset = s.wasReset := by
  unfold State.commit; split <;> rfl

/-- The channel an effect leaves, with its strobe. -/
def committed (r : Channel × Option EventInfo) : Channel :=
  match r.2 with
  | none => r.1
  | some e => { r.1 with strobes := r.1.strobes.assert e }

/-- The record an effect appends, if any. -/
def State.recordOf (s : State) (ch : Nat) (r : Channel × Option EventInfo) : List EventRecord :=
  match r.2 with
  | none => []
  | some e => [{ now := s.now, ch := ch, chId := r.1.chId, info := e }]

theorem State.commit_chans (s : State) (ch : Nat) (r : Channel × Option EventInfo) :
    (s.commit ch r).chans = s.chans.set ch (committed r) := by
  unfold State.commit committed; split <;> simp

theorem State.commit_history (s : State) (ch : Nat) (r : Channel × Option EventInfo) :
    (s.commit ch r).history = s.history ++ s.recordOf ch r := by
  unfold State.commit State.recordOf; split <;> simp

@[simp] theorem committed_cfg (r : Channel × Option EventInfo) : (committed r).cfg = r.1.cfg := by
  unfold committed; split <;> rfl

@[simp] theorem committed_fr (r : Channel × Option EventInfo) : (committed r).fr = r.1.fr := by
  unfold committed; split <;> rfl

@[simp] theorem committed_buf (r : Channel × Option EventInfo) : (committed r).buf = r.1.buf := by
  unfold committed; split <;> rfl

@[simp] theorem committed_pg (r : Channel × Option EventInfo) : (committed r).pg = r.1.pg := by
  unfold committed; split <;> rfl

/-- The frame of every operation: another channel, the inputs, the script, the parameters and the
counter are unchanged, and the history only grows. -/
theorem exec_frame {i : Instr} {s t : State} (h : exec i s = .next t) :
    t.idleDefaultMs = s.idleDefaultMs ∧ t.inp = s.inp ∧ t.script = s.script ∧ t.cycle = s.cycle ∧
      t.wasReset = s.wasReset ∧ t.chans.length = s.chans.length ∧ (∀ j, j ≠ i.channel → t.chans[j]? = s.chans[j]?) ∧
      ∃ new, t.history = s.history ++ new ∧ new.length ≤ 1 := by
  obtain ⟨c, r, _, _, rfl⟩ := exec_next h
  refine ⟨by simp, by simp, by simp, by simp, by simp, by simp [State.commit_chans], ?_, ?_⟩
  · intro j hj
    rw [State.commit_chans, chans_set_other hj]
  · refine ⟨_, s.commit_history i.channel r, ?_⟩
    unfold State.recordOf
    split <;> simp

end Sys2Proof.Machine
end

