-- ==== Sys2Proof/Laws/Select.lean ====
section
/-! SUPPORT. Selector words as their fields, and the operation each stage selects as a row of fields. -/

namespace Sys2Proof

/-- The state code of an RSEL word. -/
theorem rselWord_st (r : Bool) (st : BitVec 3) (v k e p q : Bool) :
    (rselWord r st v k e p q).extractLsb' 5 3 = st := by
  revert r st v k e p q; decide

/-- The single bits of an RSEL word. -/
theorem rselWord_bits (r : Bool) (st : BitVec 3) (v k e p q : Bool) :
    (rselWord r st v k e p q).getLsbD 8 = r ∧ (rselWord r st v k e p q).getLsbD 4 = v ∧
      (rselWord r st v k e p q).getLsbD 3 = k ∧ (rselWord r st v k e p q).getLsbD 2 = e ∧
      (rselWord r st v k e p q).getLsbD 1 = p ∧ (rselWord r st v k e p q).getLsbD 0 = q := by
  revert r st v k e p q; decide

/-- The bits of a GSEL word. -/
theorem gselWord_bits (r g d h : Bool) :
    (gselWord r g d h).getLsbD 3 = r ∧ (gselWord r g d h).getLsbD 2 = g ∧
      (gselWord r g d h).getLsbD 1 = d ∧ (gselWord r g d h).getLsbD 0 = h := by
  revert r g d h; decide

/-- The bits of a TSEL word. -/
theorem tselWord_bits (n h x : Bool) :
    (tselWord n h x).getLsbD 2 = n ∧ (tselWord n h x).getLsbD 1 = h ∧
      (tselWord n h x).getLsbD 0 = x := by
  revert n h x; decide

/-- Decoding an RSEL word by its fields. -/
theorem decodeRsel_rselWord (ch : Nat) (r : Bool) (st : BitVec 3) (v k e p q : Bool) :
    decodeRsel ch (rselWord r st v k e p q) = readerRow ch r st v k e p q := by
  obtain ⟨h8, h4, h3, h2, h1, h0⟩ := rselWord_bits r st v k e p q
  rw [decodeRsel, h8, h4, h3, h2, h1, h0, rselWord_st]

/-- Decoding a GSEL word by its fields. -/
theorem decodeGsel_gselWord (ch : Nat) (r g d h : Bool) :
    decodeGsel ch (gselWord r g d h) = retargetRow ch r g d h := by
  obtain ⟨h3, h2, h1, h0⟩ := gselWord_bits r g d h
  rw [decodeGsel, h3, h2, h1, h0]

/-- Decoding a TSEL word by its fields. -/
theorem decodeTsel_tselWord (ch : Nat) (n h x : Bool) :
    decodeTsel ch (tselWord n h x) = tickRow ch n h x := by
  obtain ⟨h2, h1, h0⟩ := tselWord_bits n h x
  rw [decodeTsel, h2, h1, h0]

/-- A row's operation is one of the channel it was decoded for. -/
theorem readerRow_channel (ch : Nat) (r : Bool) (st : BitVec 3) (v k e p q : Bool) :
    (readerRow ch r st v k e p q).channel = ch := by
  unfold readerRow
  repeat' split
  all_goals rfl

theorem retargetRow_channel (ch : Nat) (r g d h : Bool) : (retargetRow ch r g d h).channel = ch := by
  unfold retargetRow
  repeat' split
  all_goals rfl

theorem tickRow_channel (ch : Nat) (n h x : Bool) : (tickRow ch n h x).channel = ch := by
  unfold tickRow
  repeat' split
  all_goals rfl

namespace Machine

/-- The operation the reader stage selects, by fields (R80). -/
def readerOp (ch : Nat) (rst : Bool) (e : Sampled) (c : Channel) : Instr :=
  readerRow ch rst c.fr.st.code e.inp.rxValid e.inp.frameAck (c.exp e.now) (c.c1 e.inp.rxData)
    (c.c0 ch e.inp.rxData)

/-- The operation the retarget stage selects, by fields (R81). -/
def retargetOp (ch : Nat) (rst : Bool) (e : Sampled) (c : Channel) : Instr :=
  retargetRow ch rst e.inp.rtValid (c.dg e.inp) c.pg.phase.code

/-- The operation the tick stage selects, by fields (R82). -/
def tickOp (ch : Nat) (e : Sampled) (c : Channel) : Instr :=
  tickRow ch c.cfg.s0En c.pg.phase.code (c.expP e.now)

/-- The reader's choice under reset. -/
theorem readerOp_rst (ch : Nat) (e : Sampled) (c : Channel) :
    ∃ st v k x p q, readerOp ch true e c = .rdReset ch st v k x p q :=
  ⟨_, _, _, _, _, _, rfl⟩

/-- The reader's choice in AwaitingStart. -/
theorem readerOp_awaiting (ch : Nat) (e : Sampled) {c : Channel} (h : c.fr.st = .awaitingStart) :
    readerOp ch false e c =
      if elapsed e.now c.fr.tRef > c.cfg.timeoutMs then
        .asTmo ch e.inp.rxValid e.inp.frameAck (c.c1 e.inp.rxData) (c.c0 ch e.inp.rxData)
      else if e.inp.rxValid = false then
        .asWait ch e.inp.frameAck (c.c1 e.inp.rxData) (c.c0 ch e.inp.rxData)
      else if e.inp.rxData ≠ startByte c.fr.mp then
        .asMiss ch e.inp.frameAck (decide (c.fr.mp = 7))
      else if c.fr.mp = 7 then .asStart ch e.inp.frameAck
      else .asAdv ch e.inp.frameAck := by
  simp [readerOp, readerRow, Channel.exp, Channel.c1, Channel.c0, h, FrState.code, FrState.timed]

/-- The reader's choice in ReadingBody. -/
theorem readerOp_body (ch : Nat) (e : Sampled) {c : Channel} (h : c.fr.st = .readingBody) :
    readerOp ch false e c =
      if elapsed e.now c.fr.tRef > c.cfg.timeoutMs then
        .rbTmo ch e.inp.rxValid e.inp.frameAck (c.c1 e.inp.rxData) (c.c0 ch e.inp.rxData)
      else if e.inp.rxValid = false then
        .rbWait ch e.inp.frameAck (c.c1 e.inp.rxData) (c.c0 ch e.inp.rxData)
      else if c.fr.len.toNat + 1 + trailerLen > c.cfg.bufCap then
        .rbOvf ch e.inp.frameAck (c.endTest ch e.inp.rxData)
      else if c.endTest ch e.inp.rxData = true then .rbEnd ch e.inp.frameAck
      else .rbApp ch e.inp.frameAck := by
  simp [readerOp, readerRow, Channel.exp, Channel.c1, Channel.c0, h, FrState.code, FrState.timed]

/-- The reader's choice in ReadingTrailer. -/
theorem readerOp_trailer (ch : Nat) (e : Sampled) {c : Channel} (h : c.fr.st = .readingTrailer) :
    readerOp ch false e c =
      if elapsed e.now c.fr.tRef > c.cfg.timeoutMs then
        .rtTmo ch e.inp.rxValid e.inp.frameAck false (decide (c.fr.trl = 2))
      else if e.inp.rxValid = false then .rtWait ch e.inp.frameAck false (decide (c.fr.trl = 2))
      else if c.fr.trl = 2 then .rtLast ch e.inp.frameAck false
      else .rtApp ch e.inp.frameAck false := by
  simp [readerOp, readerRow, Channel.exp, Channel.c1, Channel.c0, h, FrState.code, FrState.timed]

/-- The reader's choice in Complete. -/
theorem readerOp_complete (ch : Nat) (e : Sampled) {c : Channel} (h : c.fr.st = .complete) :
    readerOp ch false e c =
      if e.inp.frameAck = true then .cpDlv ch e.inp.rxValid false false false
      else .cpHold ch e.inp.rxValid false false false := by
  simp [readerOp, readerRow, Channel.exp, Channel.c1, Channel.c0, h, FrState.code, FrState.timed]

/-- The retarget unit's choice when `rst = 0`. -/
theorem retargetOp_eq (ch : Nat) (e : Sampled) (c : Channel) :
    retargetOp ch false e c =
      if !e.inp.rtValid then .rtgNone ch (c.dg e.inp) c.pg.phase.code
      else if degenerate c.cfg e.inp.rtPower then
        if c.pg.phase.code then .rtgDga ch else .rtgDgi ch
      else if c.pg.phase.code then .rtgA ch else .rtgI ch := by
  have key : ∀ (g d h : Bool), retargetRow ch false g (g && d) h =
      if !g then .rtgNone ch (g && d) h
      else if d then if h then .rtgDga ch else .rtgDgi ch
      else if h then .rtgA ch else .rtgI ch := by
    intro g d h
    cases g <;> cases d <;> cases h <;> rfl
  exact key _ _ _

theorem selected_reader {s : State} {ch : Nat} {c : Channel} (h : s.chans[ch]? = some c) :
    s.selected .reader ch = some (readerOp ch s.inp.rst (s.sampled ch) c) := by
  simp only [State.selected, h, decode, Channel.rsel, decodeRsel_rselWord]; rfl

theorem selected_retarget {s : State} {ch : Nat} {c : Channel} (h : s.chans[ch]? = some c) :
    s.selected .retarget ch = some (retargetOp ch s.inp.rst (s.sampled ch) c) := by
  simp only [State.selected, h, decode, Channel.gsel, decodeGsel_gselWord]; rfl

theorem selected_tick {s : State} {ch : Nat} {c : Channel} (h : s.chans[ch]? = some c) :
    s.selected .tick ch = some (tickOp ch (s.sampled ch) c) := by
  simp only [State.selected, h, decode, Channel.tsel, decodeTsel_tselWord]; rfl

/-! ### What a stage selects when `rst = 0`, by state -/

/-- The reader's operation in awaitingStart. -/
theorem selected_awaiting {s : State} {ch : Nat} {c : Channel} (h : s.chans[ch]? = some c)
    (hr : s.inp.rst = false) (hs : c.fr.st = .awaitingStart) :
    s.selected .reader ch = some (
      if elapsed s.now c.fr.tRef > c.cfg.timeoutMs then
        .asTmo ch (s.chanIn ch).rxValid (s.chanIn ch).frameAck (c.c1 (s.chanIn ch).rxData) (c.c0 ch (s.chanIn ch).rxData)
      else if (s.chanIn ch).rxValid = false then
        .asWait ch (s.chanIn ch).frameAck (c.c1 (s.chanIn ch).rxData) (c.c0 ch (s.chanIn ch).rxData)
      else if (s.chanIn ch).rxData ≠ startByte c.fr.mp then
        .asMiss ch (s.chanIn ch).frameAck (decide (c.fr.mp = 7))
      else if c.fr.mp = 7 then .asStart ch (s.chanIn ch).frameAck
      else .asAdv ch (s.chanIn ch).frameAck) := by
  rw [selected_reader h, hr]
  exact congrArg some (readerOp_awaiting ch (s.sampled ch) hs)

/-- The reader's operation in readingBody. -/
theorem selected_body {s : State} {ch : Nat} {c : Channel} (h : s.chans[ch]? = some c)
    (hr : s.inp.rst = false) (hs : c.fr.st = .readingBody) :
    s.selected .reader ch = some (
      if elapsed s.now c.fr.tRef > c.cfg.timeoutMs then
        .rbTmo ch (s.chanIn ch).rxValid (s.chanIn ch).frameAck (c.c1 (s.chanIn ch).rxData) (c.c0 ch (s.chanIn ch).rxData)
      else if (s.chanIn ch).rxValid = false then
        .rbWait ch (s.chanIn ch).frameAck (c.c1 (s.chanIn ch).rxData) (c.c0 ch (s.chanIn ch).rxData)
      else if c.fr.len.toNat + 1 + trailerLen > c.cfg.bufCap then
        .rbOvf ch (s.chanIn ch).frameAck (c.endTest ch (s.chanIn ch).rxData)
      else if c.endTest ch (s.chanIn ch).rxData = true then .rbEnd ch (s.chanIn ch).frameAck
      else .rbApp ch (s.chanIn ch).frameAck) := by
  rw [selected_reader h, hr]
  exact congrArg some (readerOp_body ch (s.sampled ch) hs)

/-- The reader's operation in readingTrailer. -/
theorem selected_trailer {s : State} {ch : Nat} {c : Channel} (h : s.chans[ch]? = some c)
    (hr : s.inp.rst = false) (hs : c.fr.st = .readingTrailer) :
    s.selected .reader ch = some (
      if elapsed s.now c.fr.tRef > c.cfg.timeoutMs then
        .rtTmo ch (s.chanIn ch).rxValid (s.chanIn ch).frameAck false (decide (c.fr.trl = 2))
      else if (s.chanIn ch).rxValid = false then .rtWait ch (s.chanIn ch).frameAck false (decide (c.fr.trl = 2))
      else if c.fr.trl = 2 then .rtLast ch (s.chanIn ch).frameAck false
      else .rtApp ch (s.chanIn ch).frameAck false) := by
  rw [selected_reader h, hr]
  exact congrArg some (readerOp_trailer ch (s.sampled ch) hs)

/-- The reader's operation in complete. -/
theorem selected_complete {s : State} {ch : Nat} {c : Channel} (h : s.chans[ch]? = some c)
    (hr : s.inp.rst = false) (hs : c.fr.st = .complete) :
    s.selected .reader ch = some (
      if (s.chanIn ch).frameAck = true then .cpDlv ch (s.chanIn ch).rxValid false false false
      else .cpHold ch (s.chanIn ch).rxValid false false false) := by
  rw [selected_reader h, hr]
  exact congrArg some (readerOp_complete ch (s.sampled ch) hs)

/-- The retarget operation. -/
theorem selected_rtg {s : State} {ch : Nat} {c : Channel} (h : s.chans[ch]? = some c)
    (hr : s.inp.rst = false) :
    s.selected .retarget ch = some (
      if !(s.chanIn ch).rtValid then .rtgNone ch (c.dg (s.chanIn ch)) c.pg.phase.code
      else if degenerate c.cfg (s.chanIn ch).rtPower then
        if c.pg.phase.code then .rtgDga ch else .rtgDgi ch
      else if c.pg.phase.code then .rtgA ch else .rtgI ch) := by
  rw [selected_retarget h, hr]
  exact congrArg some (retargetOp_eq ch (s.sampled ch) c)

/-- The operation a stage selects, whichever stage it is. -/
def stageOp (g : Stage) (ch : Nat) (rst : Bool) (e : Sampled) (c : Channel) : Instr :=
  match g with
  | .reader => readerOp ch rst e c
  | .retarget => retargetOp ch rst e c
  | .tick => tickOp ch e c

theorem stageOp_channel (g : Stage) (ch : Nat) (rst : Bool) (e : Sampled) (c : Channel) :
    (stageOp g ch rst e c).channel = ch := by
  cases g
  · exact readerRow_channel ..
  · exact retargetRow_channel ..
  · exact tickRow_channel ..

theorem selected_eq (g : Stage) {s : State} {ch : Nat} {c : Channel} (h : s.chans[ch]? = some c) :
    s.selected g ch = some (stageOp g ch s.inp.rst (s.sampled ch) c) := by
  cases g
  · exact selected_reader h
  · exact selected_retarget h
  · exact selected_tick h

/-- A stage of a channel that exists is the effect of the operation it selects, committed. -/
theorem runStage_eq (g : Stage) {s : State} {ch : Nat} {c : Channel} (h : s.chans[ch]? = some c) :
    runStage g ch s =
      chain (effect (stageOp g ch s.inp.rst (s.sampled ch) c) (s.sampled ch) c) fun r =>
        .next (s.commit ch r) := by
  have hc := stageOp_channel g ch s.inp.rst (s.sampled ch) c
  have hx : s.chans[(stageOp g ch s.inp.rst (s.sampled ch) c).channel]? = some c := by rw [hc]; exact h
  rw [runStage, selected_eq g h]
  simp only
  rw [exec_eq_effect _ hx, hc]

/-- A stage answers a next state only through the effect of the operation it selects. -/
theorem runStage_next {g : Stage} {s t : State} {ch : Nat} (h : runStage g ch s = .next t) :
    ∃ c r, s.chans[ch]? = some c ∧
      effect (stageOp g ch s.inp.rst (s.sampled ch) c) (s.sampled ch) c = .next r ∧
      t = s.commit ch r := by
  cases hc : s.chans[ch]? with
  | none => simp [runStage, State.selected, hc] at h
  | some c =>
    rw [runStage_eq g hc] at h
    obtain ⟨r, hr, ht⟩ := chain_eq_next.1 h
    injection ht with ht
    exact ⟨c, r, rfl, hr, ht.symm⟩

end Machine

end Sys2Proof
end

