-- ==== Sys2Proof/Laws/Cycle.lean ====
section
/-! SUPPORT. One clock cycle, said once: a channel's cycle is the effects of the operations its three stages
select (`channelCycle`), and a step is every channel's cycle, each from the channel as the step found
it (`step_next`, `step_total`). -/

namespace Sys2Proof.Machine

/-- The events an effect raised, as a list. -/
def raised (r : Channel × Option EventInfo) : List EventInfo := r.2.toList

/-- A stage's operation on a channel: the channel it leaves, with its strobe, and what it raised. -/
def stageEffect (g : Stage) (ch : Nat) (rst : Bool) (e : Sampled) (c : Channel) :
    Result (Channel × List EventInfo) :=
  chain (effect (stageOp g ch rst e c) e c) fun r => .next (committed r, raised r)

/-- The cycle of one channel, on the channel alone (42_channel.md R180). -/
def channelCycle (ch : Nat) (rst : Bool) (e : Sampled) (c : Channel) :
    Result (Channel × List EventInfo) :=
  chain (stageEffect .reader ch rst e c) fun r1 =>
    chain (stageEffect .retarget ch rst e r1.1) fun r2 =>
      if rst then .next (r2.1, r1.2 ++ r2.2)
      else chain (stageEffect .tick ch rst e r2.1) fun r3 => .next (r3.1, r1.2 ++ r2.2 ++ r3.2)

/-- A channel's cycle put back into the block. -/
def State.commitCycle (s : State) (ch : Nat) (r : Channel × List EventInfo) : State :=
  { s with
    chans := s.chans.set ch r.1
    history := s.history ++
      r.2.map fun e => { now := s.now, ch := ch, chId := r.1.chId, info := e } }

theorem stageEffect_cfg {g : Stage} {ch : Nat} {rst : Bool} {e : Sampled} {c : Channel}
    {r : Channel × List EventInfo} (h : stageEffect g ch rst e c = .next r) : r.1.cfg = c.cfg := by
  obtain ⟨x, hx, hr⟩ := chain_eq_next.1 h
  injection hr with hr
  subst hr
  simpa using effect_cfg hx

theorem channelCycle_cfg {ch : Nat} {rst : Bool} {e : Sampled} {c : Channel}
    {r : Channel × List EventInfo} (h : channelCycle ch rst e c = .next r) : r.1.cfg = c.cfg := by
  obtain ⟨r1, h1, h⟩ := chain_eq_next.1 h
  obtain ⟨r2, h2, h⟩ := chain_eq_next.1 h
  have e1 := stageEffect_cfg h1
  have e2 := stageEffect_cfg h2
  split at h
  · injection h with h; subst h; exact e2.trans e1
  · obtain ⟨r3, h3, h⟩ := chain_eq_next.1 h
    injection h with h; subst h
    exact (stageEffect_cfg h3).trans (e2.trans e1)

/-- A channel's cycle under reset, from any channel (70_reset_and_hazards.md R235). -/
theorem channelCycle_reset (ch : Nat) (e : Sampled) (c : Channel) :
    channelCycle ch true e c =
      .next ({ c with
               fr := { st := .awaitingStart, mp := 0, len := 0, trl := 0, tRef := e.now }
               pg := { phase := .idle, phaseStart := e.now, pulseOut := false
                       target := BitVec.ofNat 32 e.idleDefaultMs
                       idleMs := BitVec.ofNat 32 e.idleDefaultMs } }, []) := by
  simp [channelCycle, stageEffect, stageOp, readerOp, readerRow, retargetOp, retargetRow, effect,
    committed, raised, Channel.toAwait]

/-- The reader's stage has an effect in every entered state (00_scope.md R14). -/
theorem readerEffect_total (ch : Nat) (rst : Bool) (e : Sampled) {c : Channel}
    (h : rst = true ∨ c.fr.st.unentered = false) :
    ∃ r, effect (readerOp ch rst e c) e c = .next r := by
  rcases rst with _ | _
  · have hu := h.resolve_left (by decide)
    cases hs : c.fr.st <;> rw [hs] at hu
    case awaitingStart => rw [readerOp_awaiting ch e hs]; repeat' split
                          all_goals exact ⟨_, rfl⟩
    case readingBody => rw [readerOp_body ch e hs]; repeat' split
                        all_goals exact ⟨_, rfl⟩
    case readingTrailer => rw [readerOp_trailer ch e hs]; repeat' split
                           all_goals exact ⟨_, rfl⟩
    case complete => rw [readerOp_complete ch e hs]; repeat' split
                     all_goals exact ⟨_, rfl⟩
    all_goals cases hu
  · exact ⟨_, rfl⟩

/-- The pulse generator's stages have an effect in every channel. -/
theorem pulseEffect_total (g : Stage) (hg : g ≠ .reader) (ch : Nat) (rst : Bool) (e : Sampled)
    (c : Channel) : ∃ r, effect (stageOp g ch rst e c) e c = .next r := by
  cases g
  · exact absurd rfl hg
  · unfold stageOp retargetOp retargetRow; dsimp only; repeat' split
    all_goals exact ⟨_, rfl⟩
  · unfold stageOp tickOp tickRow; dsimp only; repeat' split
    all_goals exact ⟨_, rfl⟩

/-- The cycle of a channel answers under reset and in every entered state, whatever the other registers
and the buffer hold (00_scope.md R14). -/
theorem channelCycle_total (ch : Nat) (rst : Bool) (e : Sampled) {c : Channel}
    (h : rst = true ∨ c.fr.st.unentered = false) : ∃ r, channelCycle ch rst e c = .next r := by
  obtain ⟨x1, h1⟩ := readerEffect_total ch rst e h
  obtain ⟨x2, h2⟩ := pulseEffect_total .retarget (by decide) ch rst e (committed x1)
  obtain ⟨x3, h3⟩ := pulseEffect_total .tick (by decide) ch rst e (committed x2)
  have e1 : stageEffect .reader ch rst e c = .next (committed x1, raised x1) := by
    rw [stageEffect, stageOp, h1]; rfl
  have e2 : stageEffect .retarget ch rst e (committed x1) = .next (committed x2, raised x2) := by
    rw [stageEffect, h2]; rfl
  have e3 : stageEffect .tick ch rst e (committed x2) = .next (committed x3, raised x3) := by
    rw [stageEffect, h3]; rfl
  simp only [channelCycle, e1, e2, e3, chain_next]
  split <;> exact ⟨_, rfl⟩

/-- The cycle of a channel with an unentered state code faults when `rst = 0` (30_encoding.md R72). -/
theorem channelCycle_unentered (ch : Nat) (e : Sampled) {c : Channel}
    (h : c.fr.st.unentered = true) :
    channelCycle ch false e c = .fault (.unreachableState c.chId c.fr.st.code) := by
  cases hs : c.fr.st <;> rw [hs] at h <;>
    first
    | exact absurd h (by decide)
    | simp [channelCycle, stageEffect, stageOp, readerOp, readerRow, effect, hs, FrState.code]

/-- A committed effect is a committed one-event cycle. -/
theorem commit_eq_commitCycle (s : State) (ch : Nat) (r : Channel × Option EventInfo) :
    s.commit ch r = s.commitCycle ch (committed r, raised r) := by
  obtain ⟨c, _ | e⟩ := r
  · simp [State.commit, State.commitCycle, committed, raised, State.setChannel]
  · simp [State.commit, State.commitCycle, committed, raised, State.raise, Channel.chId]

/-- Two commits to one channel are one. -/
theorem commitCycle_commitCycle (s : State) (ch : Nat) (r1 r2 : Channel × List EventInfo)
    (h : r2.1.chId = r1.1.chId) :
    (s.commitCycle ch r1).commitCycle ch r2 = s.commitCycle ch (r2.1, r1.2 ++ r2.2) := by
  simp [State.commitCycle, h, State.now]

@[simp] theorem commitCycle_inp (s : State) (ch : Nat) (r : Channel × List EventInfo) :
    (s.commitCycle ch r).inp = s.inp := rfl

@[simp] theorem commitCycle_sampled (s : State) (ch j : Nat) (r : Channel × List EventInfo) :
    (s.commitCycle ch r).sampled j = s.sampled j := rfl

theorem commitCycle_same {s : State} {ch : Nat} {c : Channel} (h : s.chans[ch]? = some c)
    (r : Channel × List EventInfo) : (s.commitCycle ch r).chans[ch]? = some r.1 :=
  chans_set_same h r.1

theorem commitCycle_other {s : State} {ch j : Nat} (h : j ≠ ch) (r : Channel × List EventInfo) :
    (s.commitCycle ch r).chans[j]? = s.chans[j]? :=
  chans_set_other h r.1

/-- A stage of a channel that exists. -/
theorem runStage_eq_stageEffect (g : Stage) {s : State} {ch : Nat} {c : Channel}
    (h : s.chans[ch]? = some c) :
    runStage g ch s =
      chain (stageEffect g ch s.inp.rst (s.sampled ch) c) fun r => .next (s.commitCycle ch r) := by
  rw [runStage_eq g h, stageEffect, chain_assoc]
  simp only [chain_next, commit_eq_commitCycle]

theorem chId_eq_of_cfg {c c' : Channel} (h : c'.cfg = c.cfg) : c'.chId = c.chId := by
  simp [Channel.chId, h]

/-- The cycle of a channel that exists. -/
theorem runChannel_eq {s : State} {ch : Nat} {c : Channel} (h : s.chans[ch]? = some c) :
    runChannel ch s =
      chain (channelCycle ch s.inp.rst (s.sampled ch) c) fun r => .next (s.commitCycle ch r) := by
  unfold runChannel channelCycle
  rw [runStage_eq_stageEffect .reader h]
  cases h1 : stageEffect .reader ch s.inp.rst (s.sampled ch) c with
  | fault f => rfl
  | refused f => rfl
  | next r1 =>
    have hs1 := commitCycle_same h r1
    simp only [chain_next]
    rw [runStage_eq_stageEffect .retarget hs1]
    simp only [commitCycle_inp, commitCycle_sampled]
    cases h2 : stageEffect .retarget ch s.inp.rst (s.sampled ch) r1.1 with
    | fault f => rfl
    | refused f => rfl
    | next r2 =>
      have hid2 : r2.1.chId = r1.1.chId := chId_eq_of_cfg (stageEffect_cfg h2)
      simp only [chain_next, commitCycle_commitCycle s ch r1 r2 hid2]
      by_cases hr : s.inp.rst = true
      · simp [hr]
      · have hs2 := commitCycle_same h (r2.1, r1.2 ++ r2.2)
        have hr' : ¬(s.commitCycle ch (r2.1, r1.2 ++ r2.2)).inp.rst = true := hr
        rw [if_neg hr, if_neg hr', runStage_eq_stageEffect .tick hs2]
        simp only [commitCycle_inp, commitCycle_sampled]
        cases h3 : stageEffect .tick ch s.inp.rst (s.sampled ch) r2.1 with
        | fault f => rfl
        | refused f => rfl
        | next r3 =>
          have hid3 : r3.1.chId = r2.1.chId := chId_eq_of_cfg (stageEffect_cfg h3)
          simp only [chain_next, commitCycle_commitCycle s ch (r2.1, r1.2 ++ r2.2) r3 hid3]

/-- What channel `ch`'s cycle from a state appends to the history. -/
def State.newRecords (s : State) (ch : Nat) : List EventRecord :=
  match s.chans[ch]? with
  | none => []
  | some c =>
    match channelCycle ch s.inp.rst (s.sampled ch) c with
    | .next r => r.2.map fun e => { now := s.now, ch := ch, chId := r.1.chId, info := e }
    | _ => []

/-- `newRecords` and a channel's cycle depend on that channel only. -/
theorem newRecords_congr {s s' : State} {ch : Nat} (hc : s'.chans[ch]? = s.chans[ch]?)
    (hi : s'.inp = s.inp) (hd : s'.idleDefaultMs = s.idleDefaultMs) :
    s'.newRecords ch = s.newRecords ch := by
  simp only [State.newRecords, hc, State.sampled, State.now, State.chanIn, hi, hd]

/-- Running the cycles of distinct channels runs each from the state found. -/
theorem runChannels_next {chs : List Nat} {s t : State} (hn : chs.Nodup)
    (h : runChannels chs s = .next t) :
    t.idleDefaultMs = s.idleDefaultMs ∧ t.inp = s.inp ∧ t.script = s.script ∧ t.cycle = s.cycle ∧
      t.wasReset = s.wasReset ∧ t.chans.length = s.chans.length ∧ (∀ j, j ∉ chs → t.chans[j]? = s.chans[j]?) ∧
      (∀ j ∈ chs, ∃ c r, s.chans[j]? = some c ∧
        channelCycle j s.inp.rst (s.sampled j) c = .next r ∧ t.chans[j]? = some r.1) ∧
      t.history = s.history ++ chs.flatMap s.newRecords := by
  induction chs generalizing s with
  | nil =>
    injection h with h; subst h
    simp
  | cons ch rest ih =>
    obtain ⟨hnot, hn⟩ := List.nodup_cons.1 hn
    obtain ⟨s1, h1, h2⟩ := chain_eq_next.1 h
    cases hc : s.chans[ch]? with
    | none => simp [runChannel, runStage, State.selected, hc] at h1
    | some c =>
      rw [runChannel_eq hc] at h1
      obtain ⟨r, hr, h1⟩ := chain_eq_next.1 h1
      injection h1 with h1
      subst h1
      obtain ⟨a1, a2, a3, a4, a0, a5, a6, a7, a8⟩ := ih hn h2
      refine ⟨a1, a2, a3, a4, a0, ?_, ?_, ?_, ?_⟩
      · simpa [State.commitCycle] using a5
      · intro j hj
        rw [a6 j fun h => hj (List.mem_cons_of_mem _ h)]
        exact commitCycle_other (fun (h : j = ch) => hj (by rw [h]; exact List.mem_cons_self)) r
      · intro j hj
        rcases List.mem_cons.1 hj with rfl | hj
        · exact ⟨c, r, hc, hr, by rw [a6 j hnot, commitCycle_same hc]⟩
        · have hne : j ≠ ch := fun h => hnot (h ▸ hj)
          obtain ⟨c', r', e1, e2, e3⟩ := a7 j hj
          rw [commitCycle_other hne] at e1
          exact ⟨c', r', e1, e2, e3⟩
      · have hrec : s.newRecords ch =
            r.2.map fun e => { now := s.now, ch := ch, chId := r.1.chId, info := e } := by
          simp [State.newRecords, hc, hr]
        have hrest : rest.flatMap (s.commitCycle ch r).newRecords = rest.flatMap s.newRecords := by
          refine List.flatMap_congr fun j hj => ?_
          exact newRecords_congr (commitCycle_other (fun (h : j = ch) => hnot (by rw [← h]; exact hj)) r) rfl rfl
        rw [a8, hrest, List.flatMap_cons, hrec]
        simp [State.commitCycle]

/-- If every channel's cycle answers, so do they together. -/
theorem runChannels_total {chs : List Nat} {s : State} (hn : chs.Nodup)
    (h : ∀ j ∈ chs, ∃ c r, s.chans[j]? = some c ∧
      channelCycle j s.inp.rst (s.sampled j) c = .next r) :
    ∃ t, runChannels chs s = .next t := by
  induction chs generalizing s with
  | nil => exact ⟨s, rfl⟩
  | cons ch rest ih =>
    obtain ⟨hnot, hn⟩ := List.nodup_cons.1 hn
    obtain ⟨c, r, hc, hr⟩ := h ch List.mem_cons_self
    have h1 : runChannel ch s = .next (s.commitCycle ch r) := by rw [runChannel_eq hc, hr]; rfl
    obtain ⟨t, ht⟩ := ih (s := s.commitCycle ch r) hn fun j hj => by
      obtain ⟨c', r', e1, e2⟩ := h j (List.mem_cons_of_mem _ hj)
      exact ⟨c', r', by rw [commitCycle_other (fun (h : j = ch) => hnot (by rw [← h]; exact hj))]; exact e1, e2⟩
    exact ⟨t, by rw [runChannels, h1]; exact ht⟩

/-! ### The step -/

/-- The inputs of the cycle after this one (log entry 3). -/
def State.upcoming (s : State) : CycleIn :=
  match s.script with
  | [] => Config.hostInputs s.cycle
  | i :: _ => i

theorem nextInputs_fields (s : State) :
    s.nextInputs.idleDefaultMs = s.idleDefaultMs ∧ s.nextInputs.chans = s.chans ∧
      s.nextInputs.history = s.history ∧ s.nextInputs.inp = s.upcoming ∧
      s.nextInputs.script = s.script.tail ∧ s.nextInputs.cycle = s.cycle + 1 ∧
      s.nextInputs.wasReset = s.resetReached := by
  unfold State.nextInputs State.upcoming State.resetReached
  cases h : s.script <;> simp

/-- A channel with its strobes cleared. -/
def Channel.cleared (c : Channel) : Channel := { c with strobes := Strobes.none }

theorem clearStrobes_get {s : State} {j : Nat} :
    s.clearStrobes.chans[j]? = s.chans[j]?.map Channel.cleared := by
  simp only [State.clearStrobes_chans, List.getElem?_map]; rfl

/-- What a step can do. -/
theorem step_next {s t : State} (h : step s = .next t) :
    s.legal = true ∧ t.idleDefaultMs = s.idleDefaultMs ∧ t.inp = s.upcoming ∧
      t.script = s.script.tail ∧ t.cycle = s.cycle + 1 ∧ t.wasReset = s.resetReached ∧
      t.chans.length = s.chans.length ∧
      (∀ j, j < s.numCh → ∃ c r, s.chans[j]? = some c ∧
        channelCycle j s.inp.rst (s.sampled j) c.cleared = .next r ∧ t.chans[j]? = some r.1) ∧
      t.history = s.history ++ (List.range s.numCh).flatMap s.clearStrobes.newRecords := by
  unfold step runCycle at h
  split at h
  case isFalse => cases h
  case isTrue hl =>
    obtain ⟨s1, h1, h2⟩ := chain_eq_next.1 h
    injection h2 with h2
    subst h2
    obtain ⟨n1, n2, n3, n4, n5, n6, n7⟩ := nextInputs_fields s1
    obtain ⟨a1, a2, a3, a4, a0, a5, a6, a7, a8⟩ := runChannels_next List.nodup_range h1
    refine ⟨hl, by rw [n1, a1]; rfl, ?_, by rw [n5, a3]; rfl, by rw [n6, a4]; rfl,
      by rw [n7]; simp only [State.resetReached, a0, a2]; rfl, ?_, ?_, ?_⟩
    · rw [n4]; simp only [State.upcoming, a3, a4]; rfl
    · rw [n2, a5]; simp
    · intro j hj
      obtain ⟨c, r, e1, e2, e3⟩ := a7 j (List.mem_range.2 hj)
      rw [clearStrobes_get] at e1
      obtain ⟨c0, hc0, rfl⟩ := Option.map_eq_some_iff.1 e1
      exact ⟨c0, r, hc0, e2, by rw [n2]; exact e3⟩
    · rw [n3, a8]; rfl

/-- A step of a legal block answers a next state if every channel's cycle does. -/
theorem step_total {s : State} (hl : s.legal = true)
    (h : ∀ j c, s.chans[j]? = some c →
      ∃ r, channelCycle j s.inp.rst (s.sampled j) c.cleared = .next r) :
    ∃ t, step s = .next t := by
  obtain ⟨t, ht⟩ := runChannels_total (s := s.clearStrobes) (List.nodup_range (n := s.numCh))
    fun j hj => by
      have hlt : j < s.chans.length := List.mem_range.1 hj
      obtain ⟨r, hr⟩ := h j _ (List.getElem?_eq_getElem hlt)
      exact ⟨_, r, by rw [clearStrobes_get, List.getElem?_eq_getElem hlt]; rfl, hr⟩
  exact ⟨t.nextInputs, by unfold step runCycle; rw [if_pos hl, ht]; rfl⟩

end Sys2Proof.Machine
end

