-- ==== Sys2Proof/Laws/PerInstr.lean ====
section
/-! SUPPORT. Statements made per operation, one lemma per constructor: the encoding of an operation is a
word of its own row of 30_encoding.md R84, in its format, with the row's fixed bits. -/

namespace Sys2Proof.Laws.RowMatch

/-- The operation's word has its row's format, the row covers it, and the row is one of R84's. -/
def Statement (i : Instr) : Prop :=
  (encode i).format = i.row.format ∧ i.row.covers (encode i).toNat = true ∧
    i.row ∈ i.row.format.rows

theorem rdReset (ch : Nat) (st : BitVec 3) (v k e p q : Bool) :
    Statement (.rdReset ch st v k e p q) := by
  have hc : ∀ (st : BitVec 3) (v : Bool) (k : Bool) (e : Bool) (p : Bool) (q : Bool),
      let i : Instr := (.rdReset 0 st v k e p q)
      i.row.covers (encode i).toNat = true := by decide
  exact ⟨rfl, hc st v k e p q, by simp [Instr.row, Format.rows, rselRows]⟩

theorem rdIdle (ch : Nat) (v k e p q : Bool) : Statement (.rdIdle ch v k e p q) := by
  have hc : ∀ (v : Bool) (k : Bool) (e : Bool) (p : Bool) (q : Bool),
      let i : Instr := (.rdIdle 0 v k e p q)
      i.row.covers (encode i).toNat = true := by decide
  exact ⟨rfl, hc v k e p q, by simp [Instr.row, Format.rows, rselRows]⟩

theorem rdRsv5 (ch : Nat) (v k e p q : Bool) : Statement (.rdRsv5 ch v k e p q) := by
  have hc : ∀ (v : Bool) (k : Bool) (e : Bool) (p : Bool) (q : Bool),
      let i : Instr := (.rdRsv5 0 v k e p q)
      i.row.covers (encode i).toNat = true := by decide
  exact ⟨rfl, hc v k e p q, by simp [Instr.row, Format.rows, rselRows]⟩

theorem rdRsv67 (ch : Nat) (s0 v k e p q : Bool) : Statement (.rdRsv67 ch s0 v k e p q) := by
  have hc : ∀ (s0 : Bool) (v : Bool) (k : Bool) (e : Bool) (p : Bool) (q : Bool),
      let i : Instr := (.rdRsv67 0 s0 v k e p q)
      i.row.covers (encode i).toNat = true := by decide
  exact ⟨rfl, hc s0 v k e p q, by simp [Instr.row, Format.rows, rselRows]⟩

theorem asWait (ch : Nat) (k p q : Bool) : Statement (.asWait ch k p q) := by
  have hc : ∀ (k : Bool) (p : Bool) (q : Bool),
      let i : Instr := (.asWait 0 k p q)
      i.row.covers (encode i).toNat = true := by decide
  exact ⟨rfl, hc k p q, by simp [Instr.row, Format.rows, rselRows]⟩

theorem asAdv (ch : Nat) (k : Bool) : Statement (.asAdv ch k) := by
  have hc : ∀ (k : Bool),
      let i : Instr := (.asAdv 0 k)
      i.row.covers (encode i).toNat = true := by decide
  exact ⟨rfl, hc k, by simp [Instr.row, Format.rows, rselRows]⟩

theorem asStart (ch : Nat) (k : Bool) : Statement (.asStart ch k) := by
  have hc : ∀ (k : Bool),
      let i : Instr := (.asStart 0 k)
      i.row.covers (encode i).toNat = true := by decide
  exact ⟨rfl, hc k, by simp [Instr.row, Format.rows, rselRows]⟩

theorem asMiss (ch : Nat) (k q : Bool) : Statement (.asMiss ch k q) := by
  have hc : ∀ (k : Bool) (q : Bool),
      let i : Instr := (.asMiss 0 k q)
      i.row.covers (encode i).toNat = true := by decide
  exact ⟨rfl, hc k q, by simp [Instr.row, Format.rows, rselRows]⟩

theorem asTmo (ch : Nat) (v k p q : Bool) : Statement (.asTmo ch v k p q) := by
  have hc : ∀ (v : Bool) (k : Bool) (p : Bool) (q : Bool),
      let i : Instr := (.asTmo 0 v k p q)
      i.row.covers (encode i).toNat = true := by decide
  exact ⟨rfl, hc v k p q, by simp [Instr.row, Format.rows, rselRows]⟩

theorem rbWait (ch : Nat) (k p q : Bool) : Statement (.rbWait ch k p q) := by
  have hc : ∀ (k : Bool) (p : Bool) (q : Bool),
      let i : Instr := (.rbWait 0 k p q)
      i.row.covers (encode i).toNat = true := by decide
  exact ⟨rfl, hc k p q, by simp [Instr.row, Format.rows, rselRows]⟩

theorem rbOvf (ch : Nat) (k q : Bool) : Statement (.rbOvf ch k q) := by
  have hc : ∀ (k : Bool) (q : Bool),
      let i : Instr := (.rbOvf 0 k q)
      i.row.covers (encode i).toNat = true := by decide
  exact ⟨rfl, hc k q, by simp [Instr.row, Format.rows, rselRows]⟩

theorem rbApp (ch : Nat) (k : Bool) : Statement (.rbApp ch k) := by
  have hc : ∀ (k : Bool),
      let i : Instr := (.rbApp 0 k)
      i.row.covers (encode i).toNat = true := by decide
  exact ⟨rfl, hc k, by simp [Instr.row, Format.rows, rselRows]⟩

theorem rbEnd (ch : Nat) (k : Bool) : Statement (.rbEnd ch k) := by
  have hc : ∀ (k : Bool),
      let i : Instr := (.rbEnd 0 k)
      i.row.covers (encode i).toNat = true := by decide
  exact ⟨rfl, hc k, by simp [Instr.row, Format.rows, rselRows]⟩

theorem rbTmo (ch : Nat) (v k p q : Bool) : Statement (.rbTmo ch v k p q) := by
  have hc : ∀ (v : Bool) (k : Bool) (p : Bool) (q : Bool),
      let i : Instr := (.rbTmo 0 v k p q)
      i.row.covers (encode i).toNat = true := by decide
  exact ⟨rfl, hc v k p q, by simp [Instr.row, Format.rows, rselRows]⟩

theorem rtWait (ch : Nat) (k p q : Bool) : Statement (.rtWait ch k p q) := by
  have hc : ∀ (k : Bool) (p : Bool) (q : Bool),
      let i : Instr := (.rtWait 0 k p q)
      i.row.covers (encode i).toNat = true := by decide
  exact ⟨rfl, hc k p q, by simp [Instr.row, Format.rows, rselRows]⟩

theorem rtApp (ch : Nat) (k p : Bool) : Statement (.rtApp ch k p) := by
  have hc : ∀ (k : Bool) (p : Bool),
      let i : Instr := (.rtApp 0 k p)
      i.row.covers (encode i).toNat = true := by decide
  exact ⟨rfl, hc k p, by simp [Instr.row, Format.rows, rselRows]⟩

theorem rtLast (ch : Nat) (k p : Bool) : Statement (.rtLast ch k p) := by
  have hc : ∀ (k : Bool) (p : Bool),
      let i : Instr := (.rtLast 0 k p)
      i.row.covers (encode i).toNat = true := by decide
  exact ⟨rfl, hc k p, by simp [Instr.row, Format.rows, rselRows]⟩

theorem rtTmo (ch : Nat) (v k p q : Bool) : Statement (.rtTmo ch v k p q) := by
  have hc : ∀ (v : Bool) (k : Bool) (p : Bool) (q : Bool),
      let i : Instr := (.rtTmo 0 v k p q)
      i.row.covers (encode i).toNat = true := by decide
  exact ⟨rfl, hc v k p q, by simp [Instr.row, Format.rows, rselRows]⟩

theorem cpHold (ch : Nat) (v e p q : Bool) : Statement (.cpHold ch v e p q) := by
  have hc : ∀ (v : Bool) (e : Bool) (p : Bool) (q : Bool),
      let i : Instr := (.cpHold 0 v e p q)
      i.row.covers (encode i).toNat = true := by decide
  exact ⟨rfl, hc v e p q, by simp [Instr.row, Format.rows, rselRows]⟩

theorem cpDlv (ch : Nat) (v e p q : Bool) : Statement (.cpDlv ch v e p q) := by
  have hc : ∀ (v : Bool) (e : Bool) (p : Bool) (q : Bool),
      let i : Instr := (.cpDlv 0 v e p q)
      i.row.covers (encode i).toNat = true := by decide
  exact ⟨rfl, hc v e p q, by simp [Instr.row, Format.rows, rselRows]⟩

theorem pgReset (ch : Nat) (g d h : Bool) : Statement (.pgReset ch g d h) := by
  have hc : ∀ (g : Bool) (d : Bool) (h : Bool),
      let i : Instr := (.pgReset 0 g d h)
      i.row.covers (encode i).toNat = true := by decide
  exact ⟨rfl, hc g d h, by simp [Instr.row, Format.rows, gselRows]⟩

theorem rtgNone (ch : Nat) (d h : Bool) : Statement (.rtgNone ch d h) := by
  have hc : ∀ (d : Bool) (h : Bool),
      let i : Instr := (.rtgNone 0 d h)
      i.row.covers (encode i).toNat = true := by decide
  exact ⟨rfl, hc d h, by simp [Instr.row, Format.rows, gselRows]⟩

theorem rtgI (ch : Nat) : Statement (.rtgI ch) := by
  have hc : (Instr.row (.rtgI 0)).covers (encode (.rtgI 0)).toNat = true := by decide
  exact ⟨rfl, hc, by simp [Instr.row, Format.rows, gselRows]⟩

theorem rtgA (ch : Nat) : Statement (.rtgA ch) := by
  have hc : (Instr.row (.rtgA 0)).covers (encode (.rtgA 0)).toNat = true := by decide
  exact ⟨rfl, hc, by simp [Instr.row, Format.rows, gselRows]⟩

theorem rtgDgi (ch : Nat) : Statement (.rtgDgi ch) := by
  have hc : (Instr.row (.rtgDgi 0)).covers (encode (.rtgDgi 0)).toNat = true := by decide
  exact ⟨rfl, hc, by simp [Instr.row, Format.rows, gselRows]⟩

theorem rtgDga (ch : Nat) : Statement (.rtgDga ch) := by
  have hc : (Instr.row (.rtgDga 0)).covers (encode (.rtgDga 0)).toNat = true := by decide
  exact ⟨rfl, hc, by simp [Instr.row, Format.rows, gselRows]⟩

theorem tkDis (ch : Nat) (h x : Bool) : Statement (.tkDis ch h x) := by
  have hc : ∀ (h : Bool) (x : Bool),
      let i : Instr := (.tkDis 0 h x)
      i.row.covers (encode i).toNat = true := by decide
  exact ⟨rfl, hc h x, by simp [Instr.row, Format.rows, tselRows]⟩

theorem tkWait (ch : Nat) (h : Bool) : Statement (.tkWait ch h) := by
  have hc : ∀ (h : Bool),
      let i : Instr := (.tkWait 0 h)
      i.row.covers (encode i).toNat = true := by decide
  exact ⟨rfl, hc h, by simp [Instr.row, Format.rows, tselRows]⟩

theorem tkRise (ch : Nat) : Statement (.tkRise ch) := by
  have hc : (Instr.row (.tkRise 0)).covers (encode (.tkRise 0)).toNat = true := by decide
  exact ⟨rfl, hc, by simp [Instr.row, Format.rows, tselRows]⟩

theorem tkFall (ch : Nat) : Statement (.tkFall ch) := by
  have hc : (Instr.row (.tkFall 0)).covers (encode (.tkFall 0)).toNat = true := by decide
  exact ⟨rfl, hc, by simp [Instr.row, Format.rows, tselRows]⟩

end Sys2Proof.Laws.RowMatch
end

