-- ==== Sys2Proof/Tests/Slice0.lean ====
section
/-! SUPPORT. Tests of the model on fixed values, each from 30_encoding.md R84, from the examples of the operation
rules, or from 95_test_vectors.md (V-...), and for every statement with hypotheses a state that meets
them all (witness_...). -/

namespace Sys2Proof.Tests

open Sys2Proof Sys2Proof.Machine

/-! ### Small states -/

/-- The frame reader's registers, as 95_test_vectors.md writes them. -/
def fr (st : FrState) (mp len trl t : Nat) : FrRegs :=
  { st := st, mp := BitVec.ofNat 3 mp, len := BitVec.ofNat 16 len, trl := BitVec.ofNat 2 trl
    tRef := BitVec.ofNat 32 t }

/-- The pulse generator's registers, as 95_test_vectors.md writes them. -/
def pg (ph : Phase) (out : Bool) (start target idle : Nat) : PgRegs :=
  { phase := ph, phaseStart := BitVec.ofNat 32 start, target := BitVec.ofNat 32 target
    idleMs := BitVec.ofNat 32 idle, pulseOut := out }

/-- The reference configuration with another capacity. -/
def cap (c : Nat) : ChannelConfig := { ChannelConfig.reference with bufCap := c }

/-- A channel. -/
def chn (cfg : ChannelConfig) (f : FrRegs) (b : List Host.Cell) (p : PgRegs) : Channel :=
  { cfg := cfg, fr := f, buf := b, pg := p, strobes := Strobes.none }

/-- A block of one channel, in a cycle with these inputs. -/
def blk (c : Channel) (rst : Bool) (now : Nat) (i : ChanIn) : State :=
  { State.reset with
    chans := [c], inp := { rst := rst, nowMs := BitVec.ofNat 32 now, chans := [i] } }

/-- Nothing but a byte. -/
def rx (b : Byte) : ChanIn := { ChanIn.idle with rxValid := true, rxData := b }

/-- Nothing but a reading. -/
def rt (p : Int) : ChanIn := { ChanIn.idle with rtValid := true, rtPower := BitVec.ofInt 32 p }

/-- Nothing but an acknowledge. -/
def ack : ChanIn := { ChanIn.idle with frameAck := true }

/-- The pulse generator of a fresh reset at 0. -/
def pg0 : PgRegs := pg .idle false 0 60000 60000

/-- A buffer that holds the start marker and then these bytes. -/
def framed (bs : List Byte) : List Host.Cell := Memory.writeList [] 0 (startMarker ++ bs)

/-- Channel 0's frame reader after an outcome. -/
def frOf (o : Result State) : Option FrRegs :=
  match o with
  | .next t => t.chans[0]?.map fun c => c.fr
  | _ => none

/-- Channel 0's pulse generator after an outcome. -/
def pgOf (o : Result State) : Option PgRegs :=
  match o with
  | .next t => t.chans[0]?.map fun c => c.pg
  | _ => none

/-- The events of an outcome, as (now, channel, info). -/
def evOf (o : Result State) : Option (List (Time × Nat × EventInfo)) :=
  match o with
  | .next t => some (t.history.map fun r => (r.now, r.ch, r.info))
  | _ => none

/-- Channel 0's buffer after an outcome. -/
def bufOf (o : Result State) : Option (List Host.Cell) :=
  match o with
  | .next t => t.chans[0]?.map fun c => c.buf
  | _ => none

/-! ### Well-formedness and legality (R212, R8) -/

theorem test_wf_channel : (Instr.rtgI 0).WellFormed 1 = true ∧ (Instr.rtgI 1).WellFormed 1 = false := by
  decide

theorem test_illegal_cap : (cap 15).legal = false ∧ (cap 16).legal = true ∧
    (cap 65535).legal = true ∧ (cap 65536).legal = false := by decide

theorem test_illegal_id : { ChannelConfig.reference with chId := 256 }.legal = false := by decide

theorem test_illegal_timeout : { ChannelConfig.reference with timeoutS := 65536 }.legal = false ∧
    { ChannelConfig.reference with timeoutS := 0 }.legal = true := by decide

theorem test_illegal_ppkwh : { ChannelConfig.reference with ppkwh := 0 }.legal = false ∧
    { ChannelConfig.reference with ppkwh := 4294967296 }.legal = false := by decide

theorem test_illegal_active : { ChannelConfig.reference with activeMs := 0 }.legal = false ∧
    { ChannelConfig.reference with activeMs := 65536 }.legal = false := by decide

theorem test_illegal_block : { State.reset with chans := [] }.legal = false ∧
    { State.reset with idleDefaultMs := 0 }.legal = false ∧
    { State.reset with idleDefaultMs := 4294967296 }.legal = false := by decide

theorem test_illegal_many (c : Channel) :
    { State.reset with chans := List.replicate 257 c }.legal = false := by
  simp only [State.legal, State.numCh, List.length_replicate]
  rfl

theorem test_refused : step { State.reset with idleDefaultMs := 0 } = .refused .illegalConfig := rfl

theorem test_no_channel : exec (.rtgI 1) State.reset = .refused (.noSuchChannel 1) := rfl

theorem test_reset_memory : ∀ c ∈ State.reset.chans, c.buf = [] ∧ Memory.wf c.buf := by
  simp [State.reset, Channel.afterReset, Memory.wf]

/-! ### Decoding: a word of each row, its bits written out from R84 -/

/-- 1 sss v k e p q, V: RSEL 1A0. -/
theorem test_decode_rdReset : decodeTableWord 9 0b110100000 = some (.rdReset 0 5 false false false false false) := by decide

/-- 0 000 v k e p q. -/
theorem test_decode_rdIdle : decodeTableWord 9 0b000010110 = some (.rdIdle 0 true false true true false) := by decide

/-- 0 101 v k e p q. -/
theorem test_decode_rdRsv5 : decodeTableWord 9 0b010101001 = some (.rdRsv5 0 false true false false true) := by decide

/-- 0 11s v k e p q, V: RSEL 0E5. -/
theorem test_decode_rdRsv67 : decodeTableWord 9 0b011100101 = some (.rdRsv67 0 true false false true false true) := by decide

/-- 0 001 0 k 0 p q, V: RSEL 028. -/
theorem test_decode_asWait : decodeTableWord 9 0b000101000 = some (.asWait 0 true false false) := by decide

/-- 0 001 1 k 0 1 0, P1: RSEL 032. -/
theorem test_decode_asAdv : decodeTableWord 9 0b000110010 = some (.asAdv 0 false) := by decide

/-- 0 001 1 k 0 1 1. -/
theorem test_decode_asStart : decodeTableWord 9 0b000111011 = some (.asStart 0 true) := by decide

/-- 0 001 1 k 0 0 q, V: RSEL 031. -/
theorem test_decode_asMiss : decodeTableWord 9 0b000110001 = some (.asMiss 0 false true) := by decide

/-- 0 001 v k 1 p q, V: RSEL 03F. -/
theorem test_decode_asTmo : decodeTableWord 9 0b000111111 = some (.asTmo 0 true true true true) := by decide

/-- 0 010 0 k 0 p q. -/
theorem test_decode_rbWait : decodeTableWord 9 0b001000001 = some (.rbWait 0 false false true) := by decide

/-- 0 010 1 k 0 1 q, V: RSEL 053. -/
theorem test_decode_rbOvf : decodeTableWord 9 0b001010011 = some (.rbOvf 0 false true) := by decide

/-- 0 010 1 k 0 0 0. -/
theorem test_decode_rbApp : decodeTableWord 9 0b001011000 = some (.rbApp 0 true) := by decide

/-- 0 010 1 k 0 0 1, V-RB-1: RSEL 051. -/
theorem test_decode_rbEnd : decodeTableWord 9 0b001010001 = some (.rbEnd 0 false) := by decide

/-- 0 010 v k 1 p q, V: RSEL 056. -/
theorem test_decode_rbTmo : decodeTableWord 9 0b001010110 = some (.rbTmo 0 true false true false) := by decide

/-- 0 011 0 k 0 p q. -/
theorem test_decode_rtWait : decodeTableWord 9 0b001100010 = some (.rtWait 0 false true false) := by decide

/-- 0 011 1 k 0 p 0, V: RSEL 072. -/
theorem test_decode_rtApp : decodeTableWord 9 0b001110010 = some (.rtApp 0 false true) := by decide

/-- 0 011 1 k 0 p 1, P1: RSEL 071. -/
theorem test_decode_rtLast : decodeTableWord 9 0b001110001 = some (.rtLast 0 false false) := by decide

/-- 0 011 v k 1 p q, V-TMO-4: RSEL 064. -/
theorem test_decode_rtTmo : decodeTableWord 9 0b001100100 = some (.rtTmo 0 false false false false) := by decide

/-- 0 100 v 0 e p q, V: RSEL 090. -/
theorem test_decode_cpHold : decodeTableWord 9 0b010010000 = some (.cpHold 0 true false false false) := by decide

/-- 0 100 v 1 e p q, V: RSEL 09C. -/
theorem test_decode_cpDlv : decodeTableWord 9 0b010011100 = some (.cpDlv 0 true true false false) := by decide

/-- 1 g d h, V: GSEL F. -/
theorem test_decode_pgReset : decodeTableWord 4 0b1111 = some (.pgReset 0 true true true) := by decide

/-- 0 0 d h, V: GSEL 3. -/
theorem test_decode_rtgNone : decodeTableWord 4 0b0011 = some (.rtgNone 0 true true) := by decide

/-- 0 1 0 0. -/
theorem test_decode_rtgI : decodeTableWord 4 0b0100 = some (.rtgI 0) := by decide

/-- 0 1 0 1. -/
theorem test_decode_rtgA : decodeTableWord 4 0b0101 = some (.rtgA 0) := by decide

/-- 0 1 1 0, V: GSEL 6. -/
theorem test_decode_rtgDgi : decodeTableWord 4 0b0110 = some (.rtgDgi 0) := by decide

/-- 0 1 1 1, V: GSEL 7. -/
theorem test_decode_rtgDga : decodeTableWord 4 0b0111 = some (.rtgDga 0) := by decide

/-- 0 h x, V: TSEL 3. -/
theorem test_decode_tkDis : decodeTableWord 3 0b011 = some (.tkDis 0 true true) := by decide

/-- 1 h 0, V: TSEL 6. -/
theorem test_decode_tkWait : decodeTableWord 3 0b110 = some (.tkWait 0 true) := by decide

/-- 1 0 1. -/
theorem test_decode_tkRise : decodeTableWord 3 0b101 = some (.tkRise 0) := by decide

/-- 1 1 1. -/
theorem test_decode_tkFall : decodeTableWord 3 0b111 = some (.tkFall 0) := by decide

/-- No format is that wide, and a bit above the selector's width is refused by name. -/
theorem test_decode_refused : decodeTableWord 5 0 = none ∧ decodeTableWord 16 0b1000000000 = none ∧
    decodeTableWord 8 0b10000 = none ∧ Selector.ofNat .tsel 8 = .error (.tooWide .tsel 8) := by decide

/-- Every RSEL row's match word, placed, is what the next cycle of channel 0 selects. -/
theorem test_place_rsel :
    ∀ x ∈ [0x100, 0x000, 0x0A0, 0x0C0, 0x020, 0x032, 0x033, 0x030, 0x024, 0x040, 0x052, 0x050, 0x051,
        0x044, 0x060, 0x070, 0x071, 0x064, 0x080, 0x088],
      (State.reset.withFetchWord 9 x).selected .reader 0 = decodeTableWord 9 x := by decide

/-- Every GSEL row's. -/
theorem test_place_gsel :
    ∀ x ∈ [0x8, 0x0, 0x4, 0x5, 0x6, 0x7],
      (State.reset.withFetchWord 4 x).selected .retarget 0 = decodeTableWord 4 x := by decide

/-- Every TSEL row's: with no reading the retarget stage leaves what the tick stage sees. -/
theorem test_place_tsel :
    ∀ x ∈ [0x0, 0x4, 0x5, 0x7],
      (State.reset.withFetchWord 3 x).selected .tick 0 = decodeTableWord 3 x := by decide

/-! ### The operations, one step each -/

/-- V-F-3: reset is the exit from a reserved code. -/
theorem test_rdReset :
    frOf (exec (.rdReset 0 5 false false false false false)
      (blk (chn (cap 64) (fr .reserved5 3 9 1 2) [] pg0) true 40 ChanIn.idle)) =
      some (fr .awaitingStart 0 0 0 40) := by decide

/-- V-R-1: both units in one reset cycle; the byte and the reading are lost. -/
theorem test_reset_cycle :
    let s := blk (chn (cap 64) (fr .readingBody 0 30 0 100)
      (framed (List.replicate 22 0x55)) (pg .active true 950 75 500)) true 1000
      { rx 0x55 with rtValid := true, rtPower := 2000 }
    frOf (runChannel 0 s) = some (fr .awaitingStart 0 0 0 1000) ∧
      pgOf (runChannel 0 s) = some (pg .idle false 1000 60000 60000) ∧
      evOf (runChannel 0 s) = some [] ∧
      s.selectors 0 = [.rsel 0x150, .gsel 0xD] := by decide

/-- V-F-2. -/
theorem test_rdIdle :
    step (blk (chn (cap 64) (fr .idle 0 0 0 0) [] pg0) false 1 ChanIn.idle) =
      .fault (.unreachableState 0 0) := rfl

/-- V-F-1. -/
theorem test_rdRsv5 :
    step (blk (chn (cap 64) (fr .reserved5 0 0 0 0) [] pg0) false 1 ChanIn.idle) =
      .fault (.unreachableState 0 5) := rfl

/-- R104: the fault carries the code held, 6 or 7. -/
theorem test_rdRsv67 :
    step (blk (chn (cap 64) (fr .reserved7 0 0 0 0) [] pg0) false 1 ChanIn.idle) =
      .fault (.unreachableState 0 7) ∧
    step (blk (chn (cap 64) (fr .reserved6 0 0 0 0) [] pg0) false 1 ChanIn.idle) =
      .fault (.unreachableState 0 6) := ⟨rfl, rfl⟩

/-- V-CP-1: an acknowledge outside Complete is ignored. -/
theorem test_asWait :
    let s := blk (chn (cap 64) (fr .awaitingStart 0 0 0 0) [] pg0) false 1 ack
    s.selectors 0 = [.rsel 0x028, .gsel 0x0, .tsel 0x4] ∧
      frOf (runChannel 0 s) = some (fr .awaitingStart 0 0 0 0) := by decide

/-- P1 at @1. -/
theorem test_asAdv :
    let s := blk (chn (cap 64) (fr .awaitingStart 0 0 0 0) [] pg0) false 1 (rx 0x1B)
    s.selectors 0 = [.rsel 0x032, .gsel 0x0, .tsel 0x4] ∧
      frOf (runChannel 0 s) = some (fr .awaitingStart 1 0 0 0) := by decide

/-- P1 at @8. -/
theorem test_asStart :
    let s := blk (chn (cap 64) (fr .awaitingStart 7 0 0 0) [] pg0) false 8 (rx 0x01)
    frOf (runChannel 0 s) = some (fr .readingBody 0 8 0 8) ∧
      bufOf (runChannel 0 s) = some [(0, 0x1B), (1, 0x1B), (2, 0x1B), (3, 0x1B), (4, 0x01),
        (5, 0x01), (6, 0x01), (7, 0x01)] := by decide

/-- V-AS-12 and V-AS-13: the naive restart. -/
theorem test_asMiss :
    frOf (runChannel 0 (blk (chn (cap 64) (fr .awaitingStart 6 0 0 0) [] pg0) false 1 (rx 0x55))) =
      some (fr .awaitingStart 0 0 0 0) ∧
    frOf (runChannel 0 (blk (chn (cap 64) (fr .awaitingStart 6 0 0 0) [] pg0) false 1 (rx 0x1B))) =
      some (fr .awaitingStart 1 0 0 0) := by decide

/-- V-TMO-1 and V-TMO-2: strictly more than `T_MS`, across the wrap. -/
theorem test_asTmo :
    evOf (runChannel 0 (blk (chn (cap 64) (fr .awaitingStart 0 0 0 0) [] pg0) false 1001 ChanIn.idle)) =
      some [(1001, 0, .framingTimeout 1)] ∧
    frOf (runChannel 0 (blk (chn (cap 64) (fr .awaitingStart 0 0 0 0xFFFFFF00) [] pg0) false 745
      ChanIn.idle)) = some (fr .awaitingStart 0 0 0 745) ∧
    evOf (runChannel 0 (blk (chn (cap 64) (fr .awaitingStart 0 0 0 0xFFFFFF00) [] pg0) false 744
      ChanIn.idle)) = some [] := by decide

/-- V-TMO-3 at @1008. -/
theorem test_rbWait :
    frOf (runChannel 0 (blk (chn (cap 64) (fr .readingBody 0 10 0 8) (framed [0x11, 0x22]) pg0) false
      1008 ChanIn.idle)) = some (fr .readingBody 0 10 0 8) := by decide

/-- P3 at @18: overflow wins over the end match. -/
theorem test_rbOvf :
    let s := blk (chn (cap 20) (fr .readingBody 0 17 0 8)
      (framed [0xA0, 0xA1, 0xA2, 0xA3, 0xA4, 0x1B, 0x1B, 0x1B, 0x1B]) pg0) false 18 (rx 0x1A)
    s.selectors 0 = [.rsel 0x053, .gsel 0x0, .tsel 0x4] ∧
      frOf (runChannel 0 s) = some (fr .awaitingStart 0 0 0 18) ∧
      evOf (runChannel 0 s) = some [(18, 0, .bufferOverflow 17)] := by decide

/-- V-RB-7: a byte 1A right after the start marker is no end marker. -/
theorem test_rbApp :
    let s := blk (chn (cap 64) (fr .readingBody 0 8 0 8) (framed []) pg0) false 9 (rx 0x1A)
    frOf (runChannel 0 s) = some (fr .readingBody 0 9 0 8) ∧
      (bufOf (runChannel 0 s)).map (fun m => Memory.read? m 8) = some (some 0x1A) := by decide

/-- V-RB-1 at @13. -/
theorem test_rbEnd :
    let s := blk (chn (cap 16) (fr .readingBody 0 12 0 8) (framed [0x1B, 0x1B, 0x1B, 0x1B]) pg0)
      false 13 (rx 0x1A)
    s.selectors 0 = [.rsel 0x051, .gsel 0x0, .tsel 0x4] ∧
      frOf (runChannel 0 s) = some (fr .readingTrailer 0 13 0 13) := by decide

/-- V-TMO-3 at @1009: the byte is treated as the first. -/
theorem test_rbTmo :
    let s := blk (chn (cap 64) (fr .readingBody 0 10 0 8) (framed [0x11, 0x22]) pg0) false 1009
      (rx 0x1B)
    frOf (runChannel 0 s) = some (fr .awaitingStart 1 0 0 1009) ∧
      evOf (runChannel 0 s) = some [(1009, 0, .framingTimeout 2)] := by decide

/-- R115. -/
theorem test_rtWait :
    frOf (runChannel 0 (blk (chn (cap 64) (fr .readingTrailer 0 14 1 13) (framed endMarker) pg0) false
      1013 ChanIn.idle)) = some (fr .readingTrailer 0 14 1 13) := by decide

/-- V-TMO-4 at @14: a trailer byte does not move the timeout reference. -/
theorem test_rtApp :
    frOf (runChannel 0 (blk (chn (cap 64) (fr .readingTrailer 0 13 0 13) (framed endMarker) pg0) false
      14 (rx 0x07))) = some (fr .readingTrailer 0 14 1 13) := by decide

/-- V-CP-2: the third trailer byte. -/
theorem test_rtLast :
    frOf (runChannel 0 (blk (chn (cap 64) (fr .readingTrailer 0 15 2 14)
      (framed (endMarker ++ [0x00, 0x01])) pg0) false 17 (rx 0x02))) =
      some (fr .complete 0 16 3 17) := by decide

/-- V-TMO-4 at @1014. -/
theorem test_rtTmo :
    let s := blk (chn (cap 64) (fr .readingTrailer 0 14 1 13) (framed endMarker) pg0) false 1014
      ChanIn.idle
    frOf (runChannel 0 s) = some (fr .awaitingStart 0 0 0 1014) ∧
      evOf (runChannel 0 s) = some [(1014, 0, .framingTimeout 3)] := by decide

/-- The 16-byte frame of V-CP-3 to V-CP-8, held. -/
def held : Channel :=
  chn (cap 64) (fr .complete 0 16 3 17) (framed (endMarker ++ [0x00, 0x01, 0x02])) pg0

/-- V-CP-3, V-CP-4: the port, and no byte consumed while the frame is held. -/
theorem test_cpHold :
    frOf (runChannel 0 (blk held false 18 (rx 0x1B))) = some (fr .complete 0 16 3 17) ∧
      held.rdData 0 0 false 0 = 0x1B ∧ held.rdData 0 0 false 16 = 0x00 ∧
      held.consumes false (rx 0x1B) = false := by decide

/-- V-CP-7: the record holds a copy of the frame, and the byte of that cycle is not consumed. -/
theorem test_cpDlv :
    let s := blk held false 17 { rx 0x1B with frameAck := true }
    frOf (runChannel 0 s) = some (fr .awaitingStart 0 0 0 17) ∧
      evOf (runChannel 0 s) = some [(17, 0, .frameReady 16 [0x1B, 0x1B, 0x1B, 0x1B, 0x01, 0x01, 0x01,
        0x01, 0x1B, 0x1B, 0x1B, 0x1B, 0x1A, 0x00, 0x01, 0x02])] := by decide

/-- R231. -/
theorem test_pgReset :
    pgOf (exec (.pgReset 0 true false true)
      (blk (chn (cap 64) (fr .awaitingStart 0 0 0 0) [] (pg .active true 950 75 500)) true 1000
        (rt 2000))) = some (pg .idle false 1000 60000 60000) := by decide

/-- A channel whose pulse generator alone matters. -/
def pgc (p : PgRegs) : Channel := chn (cap 64) (fr .awaitingStart 0 0 0 0) [] p

/-- R160. -/
theorem test_rtgNone :
    pgOf (exec (.rtgNone 0 false false) (blk (pgc (pg .active true 3528 75 3528)) false 3602
      ChanIn.idle)) = some (pg .active true 3528 75 3528) := by decide

/-- V-TK-3: the idle phase is shortened in place, and ends in the same cycle. -/
theorem test_rtgI :
    let s := blk (pgc (pg .idle false 0 3528 3528)) false 3000 (rt 2000)
    s.selectors 0 = [.rsel 0x024, .gsel 0x4, .tsel 0x5] ∧
      pgOf (runStage .retarget 0 s) = some (pg .idle false 0 1725 1725) ∧
      evOf (runStage .retarget 0 s) = some [(3000, 0, .retargeted 2000 1725)] ∧
      pgOf (runChannel 0 s) = some (pg .active true 3000 75 1725) := by decide

/-- P4 at @7150: the running pulse keeps its width. -/
theorem test_rtgA :
    let s := blk (pgc (pg .active true 7131 75 3528)) false 7150 (rt 2000)
    pgOf (runChannel 0 s) = some (pg .active true 7131 75 1725) ∧
      evOf (runStage .retarget 0 s) = some [(7150, 0, .retargeted 2000 1725)] := by decide

/-- P4 at @8000. -/
theorem test_rtgDgi :
    let s := blk (pgc (pg .idle false 7206 1725 1725)) false 8000 (rt 0)
    pgOf (runChannel 0 s) = some (pg .idle false 7206 60000 60000) ∧
      evOf (runStage .retarget 0 s) = some [(8000, 0, .degeneratePulseRate 0)] := by decide

/-- V-TK-9. -/
theorem test_rtgDga :
    pgOf (runChannel 0 (blk (pgc (pg .active true 7131 75 3528)) false 7150 (rt 0))) =
      some (pg .active true 7131 75 60000) := by decide

/-- V-TK-8 at @10: a disabled output still takes readings. -/
theorem test_tkDis :
    let c := { pgc (pg .idle false 0 60000 60000) with
      cfg := { ChannelConfig.reference with s0En := false } }
    (blk c false 10 (rt 1000)).selectors 0 = [.rsel 0x020, .gsel 0x4, .tsel 0x0] ∧
      pgOf (runChannel 0 (blk c false 10 (rt 1000))) = some (pg .idle false 0 3528 3528) := by decide

/-- V-TK-2 at @3602. -/
theorem test_tkWait :
    pgOf (runChannel 0 (blk (pgc (pg .active true 3528 75 3528)) false 3602 ChanIn.idle)) =
      some (pg .active true 3528 75 3528) := by decide

/-- P4 at @3528, and V-TK-7 across the wrap. -/
theorem test_tkRise :
    pgOf (runChannel 0 (blk (pgc (pg .idle false 0 3528 3528)) false 3528 ChanIn.idle)) =
      some (pg .active true 3528 75 3528) ∧
    pgOf (runChannel 0 (blk (pgc (pg .idle false 0xFFFFFF00 3528 3528)) false 3272 ChanIn.idle)) =
      some (pg .active true 3272 75 3528) := by decide

/-- V-TK-2 at @3603, and V-TK-5: the fall takes the duration set in its own cycle. -/
theorem test_tkFall :
    pgOf (runChannel 0 (blk (pgc (pg .active true 3528 75 3528)) false 3603 ChanIn.idle)) =
      some (pg .idle false 3603 3528 3528) ∧
    pgOf (runChannel 0 (blk (pgc (pg .active true 3528 75 3528)) false 3603 (rt 2000))) =
      some (pg .idle false 3603 1725 1725) := by decide

/-- V-RTG-1 to V-RTG-17: the reading, `K`, and the idle duration with the degenerate mark. -/
theorem test_idleFor :
    ∀ x ∈ [((1000 : Int), 1000, 3528, false), (500, 1000, 7139, false), (2000, 1000, 1725, false),
        (2, 1000, 3599850, false), (1, 1000, 60000, true), (0, 1000, 60000, true),
        (-350, 1000, 60000, true), (1001, 1, 3599924925, false), (1500, 1, 7199775, false),
        (3, 500, 7199775, false), (2, 500, 60000, true), (3000, 10000, 45, false),
        (47999, 1000, 0, false), (48000, 1000, 0, false), (100000, 1000, 0, false),
        (2147483647, 4294967295, 0, false), (-2147483648, 4294967295, 60000, true)],
      idleFor 60000 { ChannelConfig.reference with ppkwh := x.2.1 } (BitVec.ofInt 32 x.1) =
        (x.2.2.1, x.2.2.2) := by decide

/-- P5 at @1001: both channels time out, channel 0's record first, with its CH_ID beside the index. -/
theorem test_two_channels :
    let d := { pgc pg0 with cfg := { ChannelConfig.reference with chId := 9, s0En := false } }
    let s := { blk (pgc pg0) false 1001 ChanIn.idle with chans := [pgc pg0, d], script := [State.reset.inp] }
    (match step s with
      | .next t => some (t.history.map fun r => (r.now, r.ch, r.chId, r.info), t.inp, t.cycle)
      | _ => none) =
      some ([(1001, 0, 0, .framingTimeout 1), (1001, 1, 9, .framingTimeout 1)], State.reset.inp, 1) := by
  decide

/-- L1-4: the decoder slice of P1's frame. -/
theorem test_payload :
    payloadSlice (startMarker ++ [0, 1, 2, 3, 4, 5, 6, 7, 8, 9] ++ endMarker ++ [0x00, 0xAB, 0xCD]) =
      [0, 1, 2, 3, 4, 5, 6, 7, 8, 9] := by decide

/-! ### Stimulus scripts (R86, R87) -/

theorem test_script_line :
    readStmt "@28 ACK, RD 17".toList =
      some (.line { time := 28, extra := 0, ch := 0, items := [.ack, .rd 17] }) ∧
    readStmt "@20 ch1: P -5".toList =
      some (.line { time := 20, extra := 0, ch := 1, items := [.power (-5)] }) ∧
    readStmt "@7#2 B 1b".toList =
      some (.line { time := 7, extra := 2, ch := 0, items := [.byte 0x1B] }) ∧
    readStmt "@30 -".toList =
      some (.line { time := 30, extra := 0, ch := 0, items := [.nothing] }) := by decide

theorem test_script_pseudo :
    readStmt "FRAME 1 00 01 / 00 AB CD".toList = some (.frame 1 [0x00, 0x01] 0x00 0xAB 0xCD) ∧
    readStmt "SEND 1022 02 12 34".toList = some (.send 1022 [0x02, 0x12, 0x34]) ∧
    readStmt "START 1".toList = some (.start 1) ∧ readStmt "ENDM 9".toList = some (.endm 9) ∧
    readStmt "RUN 3600".toList = some (.run 3600) ∧ readStmt "JUMP 3".toList = none ∧
    readStmt "@1 B 1".toList = none := by decide

theorem test_script_cycles :
    scriptCycles [.line { time := 0, extra := 0, ch := 0, items := [.rst] },
        .line { time := 2, extra := 0, ch := 1, items := [.power (-1)] },
        .line { time := 2, extra := 1, ch := 0, items := [.ack] }] =
      some [{ rst := true, nowMs := 0, chans := [ChanIn.idle] },
        { rst := false, nowMs := 1, chans := [] },
        { rst := false, nowMs := 2, chans := [ChanIn.idle, rt (-1)] },
        { rst := false, nowMs := 2, chans := [ack] }] := by decide

theorem test_script_unfit :
    scriptCycles [.line { time := 0, extra := 0, ch := 0, items := [.power 2147483648] }] = none := by
  decide

/-! ### Witnesses: a state that meets the hypotheses of each statement, at the edges of its clauses -/

/-- A reader waiting for a start marker, `mp` given, reference 100. -/
def waiting (mp : Nat) : Channel := chn (cap 64) (fr .awaitingStart mp 0 0 100) [] pg0

/-- A reader in the body at the last offset of the reserve (`len = C - 3`), its buffer written. -/
def fullBody : Channel :=
  chn (cap 16) (fr .readingBody 0 13 0 100) (framed [0x00, 0x1B, 0x1B, 0x1B, 0x1B]) pg0

/-- A reader one byte before that. -/
def body : Channel :=
  chn (cap 16) (fr .readingBody 0 12 0 100) (framed [0x1B, 0x1B, 0x1B, 0x1B]) pg0

/-- A reader in the trailer, `trl` bytes in. -/
def trailer (trl : Nat) : Channel :=
  chn (cap 16) (fr .readingTrailer 0 (13 + trl) trl 100) (framed (endMarker ++ [0x00, 0x00])) pg0

/-- The same with `len` one past the last offset, outside R34. -/
def pastTrailer (trl : Nat) : Channel :=
  { trailer trl with fr := fr .readingTrailer 0 16 trl 100 }

/-- A reader with a code that no rule enters. -/
def unentered (st : FrState) : Channel := chn (cap 64) (fr st 0 0 0 100) [] pg0

/-- Channel 0 of a block of one. -/
theorem blk_chan (c : Channel) (rst : Bool) (now : Nat) (i : ChanIn) :
    (blk c rst now i).chans[0]? = some c := rfl

theorem waiting_inv (mp : Nat) : (waiting mp).Inv :=
  ⟨⟨List.Pairwise.nil, fun _ h => by cases h⟩, ⟨rfl, Nat.zero_le 64⟩, rfl⟩

theorem body_inv : body.Inv := by
  refine ⟨⟨by decide, by decide⟩, ⟨by decide, by decide, rfl, ?_, ?_⟩, rfl⟩
  · unfold Memory.Holds; decide
  · unfold Memory.WrittenBelow; decide

theorem fullBody_inv : fullBody.Inv := by
  refine ⟨⟨by decide, by decide⟩, ⟨by decide, by decide, rfl, ?_, ?_⟩, rfl⟩
  · unfold Memory.Holds; decide
  · unfold Memory.WrittenBelow; decide

theorem trailer_inv : (trailer 2).Inv := by
  refine ⟨⟨by decide, by decide⟩, ⟨by decide, by decide, by decide, ?_, ?_, ?_⟩, rfl⟩
  · unfold Memory.Holds; decide
  · unfold Memory.Holds; decide
  · unfold Memory.WrittenBelow; decide

theorem held_inv : held.Inv := by
  refine ⟨⟨by decide, by decide⟩, ⟨by decide, by decide, rfl, ?_, ?_, ?_⟩, rfl⟩
  · unfold Memory.Holds; decide
  · unfold Memory.Holds; decide
  · unfold Memory.WrittenBelow; decide

/-- A block of one channel meets the invariant if its channel does. -/
theorem blk_inv {c : Channel} (hl : c.cfg.legal = true) (hi : c.Inv) (rst : Bool) (now : Nat)
    (i : ChanIn) : (blk c rst now i).Inv := by
  refine ⟨?_, fun d hd => ?_⟩
  · simp [State.legal, State.numCh, blk, State.reset, hl]
  · have : d = c := by simpa [blk] using hd
    exact this ▸ hi

/-! Encoding and the cycle. -/

theorem witness_StepRunsTheDecodedOperations :
    let s := blk (unentered .reserved5) false 101 ChanIn.idle
    let u := blk (waiting 0) false 101 (rx 0x1B)
    let v := blk (waiting 0) true 101 (rx 0x1B)
    s.legal = true ∧
      exec (decode 0 (.rsel ((unentered .reserved5).rsel 0 false 101 ChanIn.idle))) s =
        .fault (.unreachableState 0 5) ∧
      (∀ x ∈ [u, v], ∃ s1 s2 c1 c2,
        exec (decode 0 (.rsel ((waiting 0).rsel 0 x.inp.rst 101 (rx 0x1B)))) x = .next s1 ∧
        s1.chans[0]? = some c1 ∧
        exec (decode 0 (.gsel (c1.gsel x.inp.rst (rx 0x1B)))) s1 = .next s2 ∧
        s2.chans[0]? = some c2) := by
  refine ⟨rfl, rfl, ?_⟩
  intro x hx
  simp only [List.mem_cons, List.not_mem_nil, or_false] at hx
  rcases hx with rfl | rfl <;> exact ⟨_, _, _, _, rfl, rfl, rfl, rfl⟩

/-- Each side of the equivalence, at the edges of R6 and R7. -/
theorem witness_ExactlyIllegalConfigurationsAreRefused :
    step (blk { waiting 0 with cfg := cap 15 } false 101 ChanIn.idle) = .refused .illegalConfig ∧
      ∃ t, step (blk { waiting 0 with cfg := cap 16 } false 101 ChanIn.idle) = .next t :=
  ⟨rfl, _, rfl⟩

theorem witness_ConfigurationNeverChanges :
    ∃ t, step (blk (waiting 0) false 101 (rx 0x1B)) = .next t := ⟨_, rfl⟩

/-- Two blocks that agree on channel 0 only. -/
theorem witness_ChannelsAreIndependent :
    let s := { blk (waiting 0) false 1101 (rx 0x1B) with chans := [waiting 0, held] }
    let s' := { blk (waiting 0) false 1101 (rx 0x1B) with
      chans := [waiting 0, fullBody]
      inp := { rst := false, nowMs := 1101, chans := [rx 0x1B, rx 0x1A] } }
    s'.chans[0]? = s.chans[0]? ∧ s'.chanIn 0 = s.chanIn 0 ∧ s'.inp.rst = s.inp.rst ∧
      s'.inp.nowMs = s.inp.nowMs ∧ s'.idleDefaultMs = s.idleDefaultMs ∧ 0 < s.numCh ∧
      ∃ t t', step s = .next t ∧ step s' = .next t' := by
  refine ⟨rfl, by decide, rfl, rfl, rfl, by decide, _, _, rfl, rfl⟩

theorem witness_ReaderAndPulseGeneratorShareNoRegister :
    (∃ t, exec (.asAdv 0 false) (blk (waiting 0) false 101 (rx 0x1B)) = .next t) ∧
      (Instr.asAdv 0 false).isReader = true ∧
      (∃ t, exec (.tkRise 0) (blk (waiting 0) false 101 ChanIn.idle) = .next t) ∧
      (Instr.tkRise 0).isReader = false := ⟨⟨_, rfl⟩, rfl, ⟨_, rfl⟩, rfl⟩

/-! Reset. -/

theorem witness_RdResetResult :
    let s := blk held true 200 ack
    s.chans[0]? = some held ∧ s.inp.rst = true := ⟨rfl, rfl⟩

theorem witness_PgResetResult :
    let s := blk (waiting 0) true 200 (rt 1000)
    s.chans[0]? = some (waiting 0) ∧ s.inp.rst = true ∧
      ∃ s1, runStage .reader 0 s = .next s1 := ⟨rfl, rfl, _, rfl⟩

theorem witness_ResetCycleFromAnyState :
    let s := blk (unentered .reserved6) true 200 ChanIn.idle
    s.legal = true ∧ s.inp.rst = true ∧ s.chans[0]? = some (unentered .reserved6) :=
  ⟨rfl, rfl, rfl⟩

theorem witness_ResetCycleEstablishesInvariant :
    let s := blk (unentered .reserved6) true 200 ChanIn.idle
    s.legal = true ∧ (∀ c ∈ s.chans, c.BufferOk) ∧ s.inp.rst = true := by
  refine ⟨rfl, fun c hc => ?_, rfl⟩
  have : c = unentered .reserved6 := by simpa [blk] using hc
  subst this
  exact ⟨List.Pairwise.nil, fun _ h => by cases h⟩

/-! Invariants. -/

/-- The invariant in every entered state, at the edges of R34. -/
theorem witness_EveryStepKeepsInvariant :
    (blk (waiting 7) false 101 (rx 0x01)).Inv ∧ (blk body false 101 (rx 0x1A)).Inv ∧
      (blk fullBody false 101 (rx 0x1A)).Inv ∧ (blk (trailer 2) false 101 (rx 0)).Inv ∧
      (blk held false 101 ack).Inv :=
  ⟨blk_inv rfl (waiting_inv 7) .., blk_inv rfl body_inv .., blk_inv rfl fullBody_inv ..,
    blk_inv rfl trailer_inv .., blk_inv rfl held_inv ..⟩

theorem witness_EveryOperationKeepsBuffers :
    let s := blk body false 101 (rx 0x1A)
    (∃ t, exec (.rbEnd 0 false) s = .next t) ∧ ∀ c ∈ s.chans, c.BufferOk := by
  refine ⟨⟨_, rfl⟩, fun c hc => ?_⟩
  have : c = body := by simpa [blk] using hc
  exact this ▸ body_inv.1

/-! The codes no rule enters. -/

theorem witness_UnenteredCodesFault :
    (unentered .idle).fr.st = .idle ∧ (unentered .reserved5).fr.st = .reserved5 ∧
      (unentered .reserved6).fr.st = .reserved6 ∧ (unentered .reserved7).fr.st = .reserved7 ∧
      ∀ c, (blk c false 101 (rx 0)).chans[0]? = some c ∧ (blk c false 101 (rx 0)).inp.rst = false :=
  ⟨rfl, rfl, rfl, rfl, fun _ => ⟨rfl, rfl⟩⟩

/-- Each outcome: an illegal block, the lower of two faulting channels, a reset cycle from an unentered code,
and a trailer past the end of its buffer, whose step goes on. -/
theorem witness_UnenteredCodeStopsTheStep :
    let s := { blk held false 101 ChanIn.idle with
      chans := [held, unentered .reserved7, unentered .idle] }
    let past := { trailer 2 with cfg := cap 16, fr := fr .readingTrailer 0 16 2 100 }
    { s with chans := [] }.legal = false ∧ s.legal = true ∧ s.inp.rst = false ∧
      s.chans[1]? = some (unentered .reserved7) ∧ (unentered .reserved7).fr.st = .reserved7 ∧
      (∀ j d, j < 1 → s.chans[j]? = some d → d.fr.st.unentered = false) ∧
      (blk (unentered .idle) true 101 ChanIn.idle).legal = true ∧
      (blk past false 101 (rx 7)).legal = true ∧
      (∀ c ∈ (blk past false 101 (rx 7)).chans, c.fr.st.unentered = false) ∧
      frOf (step (blk past false 101 (rx 7))) = some (fr .complete 0 17 3 101) ∧
      bufOf (step (blk past false 101 (rx 7))) = some past.buf := by
  refine ⟨rfl, rfl, rfl, rfl, rfl, fun j d hj hd => ?_, rfl, rfl, by decide, by decide, by decide⟩
  have : j = 0 := by omega
  subst this
  injection hd with hd
  exact hd ▸ rfl

/-! Operations that change nothing. -/

/-- Each timed state, at the last millisecond before its timeout. -/
theorem witness_ReaderWaitsChangeNothing :
    ∀ c ∈ [waiting 3, body, trailer 1],
      let s := blk c false 1100 ChanIn.idle
      s.chans[0]? = some c ∧ s.inp.rst = false ∧ (s.chanIn 0).rxValid = false ∧
        elapsed s.now c.fr.tRef ≤ c.cfg.timeoutMs := by decide

theorem witness_HeldFrameStays :
    let s := blk held false 18 (rx 0x1B)
    s.chans[0]? = some held ∧ s.inp.rst = false ∧ held.fr.st = .complete ∧
      (s.chanIn 0).frameAck = false ∧ held.stuck false (s.chanIn 0) = true ∧
      held.stuck false ack = false ∧ held.stuck true ChanIn.idle = false ∧
      ∃ t c', step s = .next t ∧ t.chans[0]? = some c' :=
  ⟨rfl, rfl, rfl, rfl, rfl, rfl, rfl, _, _, rfl, rfl⟩

/-- Both sides of the tick's equivalence. -/
theorem witness_PulseWaitsChangeNothing :
    let s := blk (waiting 0) false 59999 ChanIn.idle
    let u := blk (waiting 0) false 60000 ChanIn.idle
    s.chans[0]? = some (waiting 0) ∧ s.inp.rst = false ∧ (s.chanIn 0).rtValid = false ∧
      (waiting 0).cfg.s0En = true ∧ elapsed s.now pg0.phaseStart < pg0.target.toNat ∧
      ¬elapsed u.now pg0.phaseStart < pg0.target.toNat := by decide

/-! AwaitingStart. -/

/-- The match goes on, starts the frame, and is missed; `mp` at 0, 3, 4 and 7. -/
theorem witness_AsAdvExtendsTheMatch :
    ∀ x ∈ [(0, (0x1B : Byte)), (3, 0x1B), (4, 0x01), (7, 0x01), (7, 0x1B)],
      let s := blk (waiting x.1) false 1100 (rx x.2)
      s.chans[0]? = some (waiting x.1) ∧ s.inp.rst = false ∧
        (waiting x.1).fr.st = .awaitingStart ∧ (s.chanIn 0).rxValid = true ∧
        elapsed s.now (waiting x.1).fr.tRef ≤ (waiting x.1).cfg.timeoutMs := by decide

/-- The smallest buffer that takes the whole marker, and the selecting byte. -/
theorem witness_AsStartBeginsTheFrame :
    let s := blk { waiting 7 with cfg := cap 8 } false 1100 (rx 0x01)
    s.chans[0]? = some { waiting 7 with cfg := cap 8 } ∧ s.inp.rst = false ∧
      (s.chanIn 0).rxValid = true ∧ (s.chanIn 0).rxData = 0x01 ∧
      elapsed s.now (waiting 7).fr.tRef ≤ (cap 8).timeoutMs ∧ (waiting 7).fr.mp = 7 := by decide

theorem witness_AsMissRestartsTheMatch :
    let s := blk (waiting 4) false 1100 (rx 0x1B)
    s.chans[0]? = some (waiting 4) ∧ s.inp.rst = false ∧ (waiting 4).fr.st = .awaitingStart ∧
      (s.chanIn 0).rxValid = true ∧
      elapsed s.now (waiting 4).fr.tRef ≤ (waiting 4).cfg.timeoutMs ∧
      (s.chanIn 0).rxData ≠ 0x01 := by decide

/-- The first millisecond of a timeout and the last before it, in each timed state. -/
theorem witness_TimeoutRecovers :
    ∀ c ∈ [waiting 3, body, trailer 1],
      let s := blk c false 1101 (rx 0x1B)
      let u := blk c false 1100 (rx 0x1B)
      s.chans[0]? = some c ∧ s.inp.rst = false ∧
        elapsed s.now c.fr.tRef > c.cfg.timeoutS * 1000 ∧ u.chans[0]? = some c ∧
        u.inp.rst = false ∧ ¬elapsed u.now c.fr.tRef > c.cfg.timeoutS * 1000 := by decide

/-! ReadingBody and ReadingTrailer. -/

/-- Both sides of the reserve test. -/
theorem witness_OverflowRecovers :
    ∀ c ∈ [fullBody, body],
      let s := blk c false 1100 (rx 0x1A)
      s.chans[0]? = some c ∧ s.inp.rst = false ∧ c.fr.st = .readingBody ∧
        (s.chanIn 0).rxValid = true ∧ elapsed s.now c.fr.tRef ≤ c.cfg.timeoutMs := by decide

/-- The last byte within the reserve, ending the body or not. -/
theorem witness_BodyByteIsAppended :
    ∀ b ∈ [(0x1A : Byte), 0x00],
      let s := blk body false 1100 (rx b)
      s.chans[0]? = some body ∧ s.inp.rst = false ∧
        body.fr.st = .readingBody ∧ (s.chanIn 0).rxValid = true ∧
        elapsed s.now body.fr.tRef ≤ body.cfg.timeoutMs ∧
        body.fr.len.toNat + 1 + 3 ≤ body.cfg.bufCap ∧ 4 ≤ body.fr.len.toNat := by decide

/-- The other edge of its clauses on the effect, where log entry 8 speaks: `len = BUF_CAP`. -/
theorem witness_BodyByteIsAppended_pastTheBuffer :
    let d := { fullBody with cfg := cap 13 }
    (blk d false 1100 (rx 0x00)).chans[0]? = some d ∧ d.fr.len.toNat = d.cfg.bufCap ∧
      ∃ t d', exec (.rbApp 0 false) (blk d false 1100 (rx 0x00)) = .next t ∧
        t.chans[0]? = some d' ∧ d'.fr.len = 14 ∧ d'.buf = d.buf :=
  ⟨rfl, by decide, _, _, rfl, rfl, rfl, rfl⟩

/-- The last trailer byte, at the last offset of the buffer, and one before it. -/
theorem witness_TrailerByteIsAppended :
    ∀ n ∈ [1, 2],
      let c := trailer n
      let s := blk c false 1100 (rx 0xFF)
      s.chans[0]? = some c ∧ s.inp.rst = false ∧ c.fr.st = .readingTrailer ∧ (s.chanIn 0).rxValid = true ∧
        elapsed s.now c.fr.tRef ≤ c.cfg.timeoutMs := by decide

/-- The edge where log entry 8 speaks, which a legally built block can select before its first reset:
`len = BUF_CAP` in ReadingTrailer, the last trailer byte and one before it. -/
theorem witness_TrailerByteIsAppended_pastTheBuffer :
    ∀ n ∈ [1, 2],
      let c := pastTrailer n
      let s := blk c false 1100 (rx 0xFF)
      s.legal = true ∧ s.chans[0]? = some c ∧ s.inp.rst = false ∧ c.fr.st = .readingTrailer ∧
        (s.chanIn 0).rxValid = true ∧ elapsed s.now c.fr.tRef ≤ c.cfg.timeoutMs ∧
        c.fr.len.toNat = c.cfg.bufCap := by decide

/-- The step at that edge stores no byte and counts it all the same. -/
theorem test_trailerPastTheBuffer :
    frOf (runChannel 0 (blk (pastTrailer 2) false 1100 (rx 0xFF))) = some (fr .complete 0 17 3 1100) ∧
      frOf (runChannel 0 (blk (pastTrailer 1) false 1100 (rx 0xFF))) =
        some (fr .readingTrailer 0 17 2 100) := by decide

/-- A body at the end of its buffer, and a start marker in a buffer of seven bytes, at its first absent
offset. -/
theorem witness_StorePastTheBufferWritesNothing :
    let c := { waiting 7 with cfg := cap 7 }
    let d := { fullBody with cfg := cap 13 }
    (blk d false 101 (rx 1)).chans[0]? = some d ∧ d.cfg.bufCap ≤ d.fr.len.toNat ∧
      (blk c false 101 (rx 1)).chans[0]? = some c ∧ (Instr.asStart 0 false).channel = 0 ∧
      (Instr.asStart 0 false).isReader = true ∧ c.cfg.bufCap ≤ 7 ∧
      ∃ t c', exec (.asStart 0 false) (blk c false 101 (rx 1)) = .next t ∧
        t.chans[0]? = some c' ∧ Memory.read? c'.buf 6 = some 0x01 ∧ Memory.read? c'.buf 7 = none :=
  ⟨rfl, by decide, rfl, rfl, rfl, by decide, _, _, rfl, rfl, rfl, rfl⟩

/-! Complete. -/

theorem witness_AcknowledgeDeliversTheFrame :
    let s := blk held false 18 ack
    s.chans[0]? = some held ∧ s.inp.rst = false ∧ held.fr.st = .complete ∧
      (s.chanIn 0).frameAck = true := by decide

/-- A held frame, and its last readable offset. -/
theorem witness_HeldFrameLayout :
    held.Inv ∧ held.fr.st = .complete ∧ (15 : BitVec 16).toNat < held.fr.len.toNat :=
  ⟨held_inv, rfl, by decide⟩

/-! The pulse generator. -/

/-- One reading for each clause: degenerate with equality, no numerator left, and a quotient. -/
theorem witness_IdleForIsTheExactFloor :
    let k : Int := (ChannelConfig.reference.ppkwh : Int)
    let a : Int := (ChannelConfig.reference.activeMs : Int)
    (BitVec.ofInt 32 1).toInt * k ≤ 1000 ∧
      (1000 < (BitVec.ofInt 32 48000).toInt * k ∧
        3600000000 ≤ (BitVec.ofInt 32 48000).toInt * k * a) ∧
      (1000 < (BitVec.ofInt 32 47999).toInt * k ∧
        (BitVec.ofInt 32 47999).toInt * k * a < 3600000000) := by decide

theorem witness_IdleForStaysInRange :
    ChannelConfig.reference.legal = true ∧ (60000 : Nat) ≤ 4294967295 := by decide

/-- A reading just above the degenerate limit, in each phase. -/
theorem witness_ReadingRetargets :
    ∀ p ∈ [Phase.idle, Phase.active],
      let c := pgc { pg0 with phase := p }
      let s := blk c false 101 (rt 2)
      s.chans[0]? = some c ∧ s.inp.rst = false ∧ (s.chanIn 0).rtValid = true ∧ c.pg.phase = p ∧
        (s.chanIn 0).rtPower.toInt * (c.cfg.ppkwh : Int) > 1000 := by decide

/-- A reading on the degenerate limit, in each phase, and a negative one. -/
theorem witness_DegenerateReadingSetsTheLongIdle :
    ∀ p ∈ [Phase.idle, Phase.active], ∀ w ∈ [(1 : Int), 0, -2147483648],
      let c := pgc { pg0 with phase := p }
      let s := blk c false 101 (rt w)
      s.chans[0]? = some c ∧ s.inp.rst = false ∧ (s.chanIn 0).rtValid = true ∧ c.pg.phase = p ∧
        (s.chanIn 0).rtPower.toInt * (c.cfg.ppkwh : Int) ≤ 1000 := by decide

/-- Each phase on its target, and a disabled output. -/
theorem witness_TickFlipsThePhase :
    (∀ p ∈ [Phase.idle, Phase.active],
      let c := pgc { pg0 with phase := p }
      let s := blk c false 60000 ChanIn.idle
      s.chans[0]? = some c ∧ c.cfg.s0En = true ∧ c.pg.phase = p ∧
        elapsed s.now c.pg.phaseStart ≥ c.pg.target.toNat) ∧
      { ChannelConfig.reference with s0En := false }.s0En = false := by decide

/-- A reading whose duration has just passed, and one whose duration is one millisecond away. -/
theorem witness_RetargetInIdleTakesEffectAtOnce :
    ∀ n ∈ [1725, 1724],
      let s := blk (pgc pg0) false n (rt 2000)
      s.legal = true ∧ (∃ t c', step s = .next t ∧ t.chans[0]? = some c') ∧
        s.chans[0]? = some (pgc pg0) ∧ s.inp.rst = false ∧ (pgc pg0).cfg.s0En = true ∧
        (pgc pg0).pg.phase = .idle ∧ (s.chanIn 0).rtValid = true ∧
        1725 = (idleFor s.idleDefaultMs (pgc pg0).cfg (s.chanIn 0).rtPower).1 ∧
        (1725 ≤ elapsed s.now (pgc pg0).pg.phaseStart ↔ n = 1725) := by
  intro n hn
  simp only [List.mem_cons, List.not_mem_nil, or_false] at hn
  rcases hn with rfl | rfl <;>
    exact ⟨rfl, ⟨_, _, rfl, rfl⟩, rfl, rfl, rfl, rfl, rfl, by decide, by decide⟩

/-- A reading in the last millisecond of a pulse, and in the one that ends it. -/
theorem witness_RetargetInActiveNeverTruncates :
    ∀ n ∈ [3602, 3603],
      let c := pgc (pg .active true 3528 75 3528)
      let s := blk c false n (rt 2000)
      (∃ t c', step s = .next t ∧ t.chans[0]? = some c') ∧ s.chans[0]? = some c ∧
        s.inp.rst = false ∧ c.cfg.s0En = true ∧ c.pg.phase = .active ∧
        (s.chanIn 0).rtValid = true ∧
        (elapsed s.now c.pg.phaseStart < c.pg.target.toNat ↔ n = 3602) := by
  intro n hn
  simp only [List.mem_cons, List.not_mem_nil, or_false] at hn
  rcases hn with rfl | rfl <;>
    exact ⟨⟨_, _, rfl, rfl⟩, rfl, rfl, rfl, rfl, rfl, by decide⟩

theorem witness_DisabledChannelNeverPulses :
    let c := { pgc pg0 with cfg := { ChannelConfig.reference with s0En := false } }
    let s := blk c false 60000 (rt 1000)
    (∃ t c', step s = .next t ∧ t.chans[0]? = some c') ∧ s.chans[0]? = some c ∧
      s.inp.rst = false ∧ c.cfg.s0En = false := ⟨⟨_, _, rfl, rfl⟩, rfl, rfl, rfl⟩

/-- A pulse just begun, with an idle duration of 0 and of 2 ms; each millisecond of V-TK-6's kind. -/
theorem witness_PulseTrainTiming :
    ∀ v ∈ [0, 2],
      let c := { pgc (pg .active true 7 1 v) with cfg := { ChannelConfig.reference with activeMs := 1 } }
      let s := blk c false 7 ChanIn.idle
      s.chans[0]? = some c ∧ c.cfg.legal = true ∧ c.cfg.s0En = true ∧ c.pg.phase = .active ∧
        c.pg.pulseOut = true ∧ c.pg.phaseStart = s.now ∧
        c.pg.target = BitVec.ofNat 32 c.cfg.activeMs ∧
        pgOf (pulseRun 0 1 s) = some (pg .idle false 8 v v) ∧
        pgOf (pulseRun 0 (1 + max v 1) s) = some (pg .active true (8 + max v 1) 1 v) := by decide

theorem witness_StartupStaysLow :
    let s := { blk (pgc (pg .idle false 7 2 2)) false 7 ChanIn.idle with idleDefaultMs := 2 }
    s.chans[0]? = some (pgc (pg .idle false 7 2 2)) ∧ s.legal = true ∧
      (pgc (pg .idle false 7 2 2)).cfg.s0En = true ∧
      (pgc (pg .idle false 7 2 2)).pg =
        { phase := .idle, phaseStart := s.now, target := BitVec.ofNat 32 s.idleDefaultMs
          idleMs := BitVec.ofNat 32 s.idleDefaultMs, pulseOut := false } ∧
      pgOf (pulseRun 0 1 s) = some (pg .idle false 7 2 2) ∧
      pgOf (pulseRun 0 2 s) = some (pg .active true 9 75 2) := by decide

/-! Whole-machine rules. -/

theorem witness_TransitionTable :
    (∃ t c', exec (.rbEnd 0 false) (blk body false 101 (rx 0x1A)) = .next t ∧
      (blk body false 101 (rx 0x1A)).chans[(Instr.rbEnd 0 false).channel]? = some body ∧
      t.chans[(Instr.rbEnd 0 false).channel]? = some c') ∧
    (blk body false 101 (rx 0x1A)).selected .reader 0 = some (.rbEnd 0 false) ∧
    (blk body true 101 (rx 0x1A)).selected .reader 0 =
      some (.rdReset 0 2 true false false false true) :=
  ⟨⟨_, _, rfl, rfl, rfl⟩, by decide, by decide⟩

theorem witness_PhaseChangesOnlyOnTicksAndReset :
    ∃ t d', exec (.tkRise 0) (blk (waiting 0) false 60000 ChanIn.idle) = .next t ∧
      (blk (waiting 0) false 60000 ChanIn.idle).chans[0]? = some (waiting 0) ∧
      t.chans[0]? = some d' ∧ d'.pg.phase ≠ (waiting 0).pg.phase :=
  ⟨_, _, rfl, rfl, rfl, by decide⟩

theorem witness_OnlyStoringOperationsWriteTheBuffer :
    ∃ t d', exec (.rbApp 0 false) (blk body false 101 (rx 0x1A)) = .next t ∧
      (blk body false 101 (rx 0x1A)).chans[0]? = some body ∧
      t.chans[0]? = some d' ∧ d'.buf ≠ body.buf :=
  ⟨_, _, rfl, rfl, rfl, by decide⟩

/-- An unconsumed byte: none presented, and one presented to a held frame; and to a code that faults. -/
theorem witness_UnconsumedByteHasNoEffect :
    (∀ x ∈ [(body, ChanIn.idle), (held, rx 0x1B), (unentered .idle, rx 0x1B)],
      let s := blk x.1 false 101 x.2
      let s' := blk x.1 false 101 { x.2 with rxData := 0x77 }
      s.chans[0]? = some x.1 ∧ s' = { s with inp := s'.inp } ∧ s'.inp.rst = s.inp.rst ∧
        s'.inp.nowMs = s.inp.nowMs ∧ s'.chanIn 0 = { s.chanIn 0 with rxData := 0x77 } ∧
        x.1.consumes s.inp.rst (s.chanIn 0) = false) ∧
    (∃ t, runStage .reader 0 (blk held false 101 (rx 0x1B)) = .next t) ∧
    ∃ f, runStage .reader 0 (blk (unentered .idle) false 101 (rx 0x1B)) = .fault f :=
  ⟨by decide, ⟨_, rfl⟩, _, rfl⟩

/-- A step with both a frame-reader and a pulse-generator event. -/
theorem witness_EventsOfAStep :
    ∃ t c', step (blk (waiting 0) false 1101 (rt 1000)) = .next t ∧ t.chans[0]? = some c' ∧
      t.history.map (fun r => r.info.code) = [2, 4] ∧ c'.strobes.timeout = true ∧
      c'.strobes.retarget = true ∧ c'.strobes.frame = false :=
  ⟨_, _, rfl, rfl, rfl, rfl, rfl, rfl⟩

theorem witness_StrobeShowsTheEvent :
    ∃ t c', step (blk held false 1101 { rt 0 with frameAck := true }) = .next t ∧
      t.chans[0]? = some c' ∧ c'.strobes.frame = true ∧ c'.strobes.degenerate = true ∧
      c'.strobes.overflow = false := ⟨_, _, rfl, rfl, rfl, rfl, rfl⟩

/-- A held frame at the last readable offset and at `len`, a cycle before the first reset, and the first
reset cycle. -/
theorem witness_OutputsOfACycle :
    (∀ a ∈ [(15 : BitVec 16), 16],
      let s := blk held false 101 { ChanIn.idle with rdAddr := a }
      ∃ t c', step s = .next t ∧ s.chans[0]? = some held ∧ t.chans[0]? = some c' ∧
        s.wasReset = true ∧
        (cycleOutputs s t 0).map (fun o => o.rdData) = some (if a = 15 then 0x02 else 0x00)) ∧
      let u := { blk held false 101 ChanIn.idle with wasReset := false }
      let v := { blk held true 101 ChanIn.idle with wasReset := false }
      (∃ t c', step u = .next t ∧ t.chans[0]? = some c' ∧ t.wasReset = false ∧
        cycleOutputs u t 0 = some (ChanOut.drawn 0 0)) ∧
      ∃ t c', step v = .next t ∧ t.chans[0]? = some c' ∧ t.wasReset = true ∧
        (cycleOutputs v t 0).map (fun o => o.frameValid) = some false := by
  refine ⟨fun a ha => ?_, ⟨_, _, rfl, rfl, rfl, rfl⟩, ⟨_, _, rfl, rfl, rfl, rfl⟩⟩
  simp only [List.mem_cons, List.not_mem_nil, or_false] at ha
  rcases ha with rfl | rfl <;> exact ⟨_, _, rfl, rfl, rfl, rfl, rfl⟩

/-! Frames. -/

theorem witness_FrameOfRegisterOperations :
    ∀ x ∈ [(waiting 0, Instr.rdReset 0 1 false false false false false), (waiting 0, .asAdv 0 false),
        (waiting 0, .asMiss 0 false false), (waiting 0, .asWait 0 false false false),
        (body, .rbWait 0 false false false), (trailer 1, .rtWait 0 false false false),
        (held, .cpHold 0 false false false false), (waiting 0, .rtgNone 0 false false),
        (waiting 0, .tkWait 0 false)],
      x.2.channel = 0 ∧ (blk x.1 false 101 ChanIn.idle).chans[0]? = some x.1 ∧
        (frOf (exec x.2 (blk x.1 false 101 ChanIn.idle))).isSome := by decide

theorem witness_FrameOfStoringOperations :
    ∀ x ∈ [(waiting 7, Instr.asStart 0 false), (body, .rbApp 0 false), (body, .rbEnd 0 false),
        (trailer 1, .rtApp 0 false false), (trailer 2, .rtLast 0 false false)],
      x.2.channel = 0 ∧ (blk x.1 false 101 (rx 0x1A)).chans[0]? = some x.1 ∧
        x.2.storesBytes = true ∧ (frOf (exec x.2 (blk x.1 false 101 (rx 0x1A)))).isSome := by decide

theorem witness_FrameOfReaderEvents :
    ∀ x ∈ [(waiting 7, Instr.asTmo 0 true false false false), (body, .rbTmo 0 true false false false),
        (trailer 1, .rtTmo 0 true false false false), (fullBody, .rbOvf 0 false false),
        (held, .cpDlv 0 false false false false)],
      x.2.channel = 0 ∧ (blk x.1 false 1101 (rx 0x1A)).chans[0]? = some x.1 ∧ x.2.raises = true ∧
        x.2.isReader = true ∧ (frOf (exec x.2 (blk x.1 false 1101 (rx 0x1A)))).isSome := by decide

theorem witness_FrameOfPulseOperations :
    ∀ i ∈ [Instr.pgReset 0 false false false, .rtgNone 0 false false, .rtgI 0, .rtgA 0, .rtgDgi 0,
        .rtgDga 0, .tkDis 0 false false, .tkWait 0 false, .tkRise 0, .tkFall 0],
      i.channel = 0 ∧ (blk (waiting 0) false 101 (rt 1000)).chans[0]? = some (waiting 0) ∧
        i.isReader = false ∧ (pgOf (exec i (blk (waiting 0) false 101 (rt 1000)))).isSome := by decide

/-! Streams. -/

/-- Bytes arriving one a millisecond from time 101 on. -/
def arrivals (bs : List Byte) : List Arrival :=
  bs.zipIdx.map fun x => { now := BitVec.ofNat 32 (101 + x.2), byte := x.1 }

/-- `NoTimeout`, computed. -/
def noTimeoutB (as : List Arrival) (s : State) : Bool :=
  match as with
  | [] => true
  | a :: rest =>
    !(s.presenting 0 a).expired 0 &&
      match runStage .reader 0 (s.presenting 0 a) with
      | .next s' => noTimeoutB rest s'
      | _ => true

theorem noTimeout_of_check {as : List Arrival} {s : State} (h : noTimeoutB as s = true) :
    NoTimeout 0 as s := by
  induction as generalizing s with
  | nil => trivial
  | cons a rest ih =>
    simp only [noTimeoutB, Bool.and_eq_true, Bool.not_eq_true'] at h
    refine ⟨h.1, fun s' hs => ih ?_⟩
    have h2 := h.2
    rw [hs] at h2
    exact h2

/-- The match position at the edges of the recognised and the missed ranges. -/
theorem witness_StartRecognition :
    ∀ m ∈ [0, 1, 3, 4, 7],
      (waiting m).cfg.legal = true ∧ (waiting m).fr.st = .awaitingStart ∧
      (arrivals startMarker).map (fun a => a.byte) =
        [0x1B, 0x1B, 0x1B, 0x1B, 0x01, 0x01, 0x01, 0x01] ∧
      NoTimeout 0 (arrivals startMarker) (blk (waiting m) false 100 ChanIn.idle) := by
  intro m hm
  refine ⟨rfl, rfl, by decide, noTimeout_of_check ?_⟩
  revert m
  decide

/-- V-AS-11 with `r = 5`. -/
theorem witness_RunOfMarkerBytes :
    let as := arrivals (List.replicate 5 0x1B)
    (waiting 0).fr.st = .awaitingStart ∧ (waiting 0).fr.mp = 0 ∧ (∀ a ∈ as, a.byte = 0x1B) ∧
      as ≠ [] ∧ NoTimeout 0 as (blk (waiting 0) false 100 ChanIn.idle) ∧
      (frOf (feed 0 as (blk (waiting 0) false 100 ChanIn.idle))).map (fun f => f.mp) = some 1 :=
  ⟨rfl, rfl, by decide, by decide, noTimeout_of_check (by decide), by decide⟩

/-- A truthful match position, about to advance, to miss and to start the frame. -/
theorem witness_NoFalseStart :
    ∀ x ∈ [(3, (0x1B : Byte), startMarker.take 3), (3, 0x02, startMarker.take 3),
        (7, 0x01, [0x55] ++ startMarker.take 7)],
      let s := blk (waiting x.1) false 100 ChanIn.idle
      let a : Arrival := { now := 101, byte := x.2.1 }
      s.chans[0]? = some (waiting x.1) ∧ (waiting x.1).fr.st = .awaitingStart ∧
        startMarker.take (waiting x.1).fr.mp.toNat <:+ x.2.2 ∧
        (s.presenting 0 a).expired 0 = false ∧
        (frOf (runStage .reader 0 (s.presenting 0 a))).isSome := by decide

theorem witness_EndDetectionNeverOverlapsTheStart :
    let s := blk body false 101 (rx 0x1A)
    s.chans[0]? = some body ∧ body.cfg.legal = true ∧ body.Inv ∧ s.inp.rst = false ∧
      body.fr.st = .readingBody ∧
      ∃ t c', runStage .reader 0 s = .next t ∧ t.chans[0]? = some c' ∧
        c'.fr.st = .readingTrailer :=
  ⟨rfl, rfl, body_inv, rfl, rfl, _, _, rfl, rfl, rfl⟩

/-- The empty payload in the smallest buffer, and one byte, from match positions 0 and 4. -/
theorem witness_FramingCorrectness :
    ∀ x ∈ [(0, 16, ([] : List Byte)), (4, 17, [0x1B])],
      let c := { waiting x.1 with cfg := cap x.2.1 }
      let as := arrivals (startMarker ++ x.2.2 ++ endMarker ++ [0x00, 0x1B, 0x1A])
      c.cfg.legal = true ∧ c.fr.st = .awaitingStart ∧
        ¬(1 ≤ c.fr.mp.toNat ∧ c.fr.mp.toNat ≤ 3) ∧
        as.map (fun a => a.byte) = startMarker ++ x.2.2 ++ endMarker ++ [0x00, 0x1B, 0x1A] ∧
        ¬endMarker <:+: x.2.2 ∧ 8 + x.2.2.length + 5 + 3 ≤ c.cfg.bufCap ∧
        NoTimeout 0 as (blk c false 100 ChanIn.idle) ∧
        (frOf (feed 0 as (blk c false 100 ChanIn.idle))).map (fun f => (f.st, f.len.toNat)) =
          some (.complete, 16 + x.2.2.length) := by
  intro x hx
  simp only [List.mem_cons, List.not_mem_nil, or_false] at hx
  rcases hx with rfl | rfl <;>
    exact ⟨by decide, rfl, by decide, by decide, by decide, by decide,
      noTimeout_of_check (by decide), by decide⟩

/-- V-RB-2: `C = 16`, and the byte that overflows would also end the body. -/
theorem witness_OverflowThreshold :
    let c := { waiting 0 with cfg := cap 16 }
    let bs : List Byte := [0x55, 0x1B, 0x1B, 0x1B, 0x1B]
    let as := arrivals (startMarker ++ bs)
    let last : Arrival := { now := 114, byte := 0x1A }
    c.cfg.legal = true ∧ c.fr.st = .awaitingStart ∧
      ¬(1 ≤ c.fr.mp.toNat ∧ c.fr.mp.toNat ≤ 3) ∧
      as.map (fun a => a.byte) = startMarker ++ bs ∧ bs.length + 11 = c.cfg.bufCap ∧
      ¬endMarker <:+: bs ∧ NoTimeout 0 (as ++ [last]) (blk c false 100 ChanIn.idle) ∧
      evOf (feed 0 (as ++ [last]) (blk c false 100 ChanIn.idle)) =
        some [(114, 0, .bufferOverflow 13)] :=
  ⟨by decide, rfl, by decide, by decide, by decide, by decide, noTimeout_of_check (by decide),
    by decide⟩

/-- The first millisecond past `T_MS`, across the wrap of `now_ms` (V-TMO-2). -/
theorem witness_TimeoutBoundsRecovery :
    let c := chn (cap 64) (fr .readingBody 0 8 0 0xFFFFFF00) (framed []) pg0
    let s := blk c false 745 (rx 0x1B)
    (∃ t c', step s = .next t ∧ t.chans[0]? = some c') ∧ s.chans[0]? = some c ∧
      s.inp.rst = false ∧ c.fr.st.timed = true ∧
      TrueTimes c.fr.tRef s.now 0xFFFFFF00 (0xFFFFFF00 + 1001) ∧
      (0xFFFFFF00 + 1001) - 0xFFFFFF00 > c.cfg.timeoutS * 1000 :=
  ⟨⟨_, _, rfl, rfl⟩, rfl, rfl, rfl, ⟨by decide, by decide, by decide, by decide⟩, by decide⟩

/-- A frame script of one payload byte across the wrap. -/
theorem test_frame_script :
    (scriptCycles [.frame 4294967295 [0x55] 0x00 0xAB 0xCD]).map
        (fun cs => cs.map fun i => (i.nowMs, i.chans)) =
      some ((startMarker ++ [0x55] ++ endMarker ++ [0x00, 0xAB, 0xCD]).zipIdx.map fun (x : Byte × Nat) =>
        (BitVec.ofNat 32 (4294967295 + x.2), [rx x.1])) := by decide

end Sys2Proof.Tests
end

namespace Sys2Proof.Machine

/-! What a step answers, in every state: a refusal exactly for an illegal configuration, the fault of the first
unentered state code, or a next state (00_scope.md R8, R14). -/

/-! ### Which configurations are illegal (00_scope.md R6, R7) -/

/-- The ranges of R7, each from its outside. -/
theorem ChannelConfig.legal_eq_false_iff (cfg : ChannelConfig) :
    cfg.legal = false ↔
      255 < cfg.chId ∨ cfg.bufCap < 16 ∨ 65535 < cfg.bufCap ∨ 65535 < cfg.timeoutS ∨
        cfg.ppkwh = 0 ∨ 4294967296 ≤ cfg.ppkwh ∨ cfg.activeMs = 0 ∨ 65535 < cfg.activeMs := by
  simp only [ChannelConfig.legal, Bool.and_eq_false_iff, decide_eq_false_iff_not]
  omega

/-- The ranges of R6 for the block itself, and a channel for those of R7. -/
theorem State.legal_eq_false_iff (s : State) :
    s.legal = false ↔
      s.numCh = 0 ∨ 256 < s.numCh ∨ s.idleDefaultMs = 0 ∨ 4294967296 ≤ s.idleDefaultMs ∨
        ∃ c ∈ s.chans, c.cfg.legal = false := by
  simp only [State.legal, Bool.and_eq_false_iff, decide_eq_false_iff_not, List.all_eq_false,
    Bool.not_eq_true, Nat.not_le, Nat.lt_one_iff, or_assoc]
  rfl

/-! ### The outcome of a step (00_scope.md R14) -/

/-- The unentered codes, by name (30_encoding.md R72). -/
theorem FrState.unentered_iff (st : FrState) :
    st.unentered = true ↔ st = .idle ∨ st = .reserved5 ∨ st = .reserved6 ∨ st = .reserved7 := by
  cases st <;> decide

theorem step_illegal {s : State} (h : s.legal = false) : step s = .refused .illegalConfig := by
  simp [step, runCycle, h]

theorem step_legal {s : State} (h : s.legal = true) :
    step s =
      chain (runChannels (List.range s.numCh) s.clearStrobes) fun t => .next t.nextInputs := by
  simp [step, runCycle, h]

theorem runChannels_append (xs ys : List Nat) (s : State) :
    runChannels (xs ++ ys) s = chain (runChannels xs s) (runChannels ys) := by
  induction xs generalizing s with
  | nil => rfl
  | cons x xs ih => simp only [List.cons_append, runChannels, ih, chain_assoc]

/-- A fault in a channel's cycle is the outcome of the whole, once the channels before it answer: they leave
the faulting channel and its inputs as they found them. -/
theorem runChannels_fault {pre rest : List Nat} {ch : Nat} {s : State} {c : Channel} {f : Fault}
    (hn : (pre ++ [ch]).Nodup) (hc : s.chans[ch]? = some c)
    (hpre : ∀ j ∈ pre, ∃ d r, s.chans[j]? = some d ∧
      channelCycle j s.inp.rst (s.sampled j) d = .next r)
    (hf : channelCycle ch s.inp.rst (s.sampled ch) c = .fault f) :
    runChannels (pre ++ ch :: rest) s = .fault f := by
  obtain ⟨hpreNodup, -, hdisj⟩ := List.nodup_append.1 hn
  have hnot : ch ∉ pre := fun h => hdisj ch h ch List.mem_cons_self rfl
  obtain ⟨t, ht⟩ := runChannels_total hpreNodup hpre
  obtain ⟨hidle, hinp, -, -, -, -, hother, -⟩ := runChannels_next hpreNodup ht
  have hsampled : t.sampled ch = s.sampled ch := by
    simp only [State.sampled, State.now, State.chanIn, hidle, hinp]
  have hrun : runChannel ch t = .fault f := by
    rw [runChannel_eq ((hother ch hnot).trans hc), hinp, hsampled, hf, chain_fault]
  rw [runChannels_append, ht, chain_next, runChannels, hrun, chain_fault]

/-- A step of a legal block faults as the first faulting channel does. -/
theorem step_fault {s : State} {ch : Nat} {c : Channel} {f : Fault} (hl : s.legal = true)
    (hc : s.chans[ch]? = some c)
    (hbefore : ∀ j d, j < ch → s.chans[j]? = some d →
      ∃ r, channelCycle j s.inp.rst (s.sampled j) d.cleared = .next r)
    (hf : channelCycle ch s.inp.rst (s.sampled ch) c.cleared = .fault f) :
    step s = .fault f := by
  obtain ⟨hlt, -⟩ := List.getElem?_eq_some_iff.1 hc
  have hsplit : List.range s.numCh =
      List.range ch ++ ch :: (List.range (s.numCh - (ch + 1))).map (ch + 1 + ·) := by
    rw [← List.singleton_append, ← List.append_assoc, ← List.range_succ, ← List.range_add]
    congr 1
    simp only [State.numCh]
    omega
  have hrun : runChannels (List.range s.numCh) s.clearStrobes = .fault f := by
    rw [hsplit]
    refine runChannels_fault (c := c.cleared) ?_ ?_ ?_ hf
    · rw [← List.range_succ]
      exact List.nodup_range
    · rw [clearStrobes_get, hc, Option.map_some]
    · intro j hj
      have hjlt : j < ch := List.mem_range.1 hj
      have hd := List.getElem?_eq_getElem (hjlt.trans hlt)
      obtain ⟨r, hr⟩ := hbefore j _ hjlt hd
      exact ⟨_, r, by rw [clearStrobes_get, hd, Option.map_some], hr⟩
  rw [step_legal hl, hrun, chain_fault]

/-- With `rst = 0`, the first channel with an unentered code stops a legal block. -/
theorem step_unentered {s : State} {ch : Nat} {c : Channel} (hl : s.legal = true)
    (hr : s.inp.rst = false) (hc : s.chans[ch]? = some c) (hu : c.fr.st.unentered = true)
    (hfirst : ∀ j d, j < ch → s.chans[j]? = some d → d.fr.st.unentered = false) :
    step s = .fault (.unreachableState c.chId c.fr.st.code) := by
  refine step_fault hl hc (fun j d hj hd => ?_) ?_
  · exact channelCycle_total j _ _ (.inr (hfirst j d hj hd))
  · rw [hr]
    exact channelCycle_unentered ch (s.sampled ch) (c := c.cleared) hu

/-- Under reset, and where every channel's code is an entered one, a legal block answers. -/
theorem step_entered {s : State} (hl : s.legal = true)
    (h : s.inp.rst = true ∨ ∀ c ∈ s.chans, c.fr.st.unentered = false) :
    ∃ t, step s = .next t :=
  step_total hl fun j c hc =>
    channelCycle_total j s.inp.rst (s.sampled j) (c := c.cleared)
      (h.imp_right fun h => h c (List.mem_of_getElem? hc))

/-- The first channel with an unentered code, if there is one. -/
theorem exists_first_unentered {s : State} (h : ∃ c ∈ s.chans, c.fr.st.unentered = true) :
    ∃ (ch : Nat) (c : Channel), s.chans[ch]? = some c ∧ c.fr.st.unentered = true ∧
      ∀ (j : Nat) (d : Channel), j < ch → s.chans[j]? = some d → d.fr.st.unentered = false := by
  have hlt := List.findIdx_lt_length.2 h
  refine ⟨_, _, List.getElem?_eq_getElem hlt, List.findIdx_getElem (w := hlt), ?_⟩
  intro j d hj hd
  obtain ⟨hjlt, rfl⟩ := List.getElem?_eq_some_iff.1 hd
  simpa using List.not_of_lt_findIdx hj

/-- A legal block is never refused: it answers, or a channel's unentered code stops it. -/
theorem step_legal_not_refused {s : State} (hl : s.legal = true) (r : Refusal) :
    step s ≠ .refused r := by
  by_cases h : s.inp.rst = true ∨ ∀ c ∈ s.chans, c.fr.st.unentered = false
  · obtain ⟨t, ht⟩ := step_entered hl h
    simp [ht]
  · obtain ⟨hrst, hsome⟩ := not_or.1 h
    have hex : ∃ c ∈ s.chans, c.fr.st.unentered = true := by simpa using hsome
    obtain ⟨ch, c, hc, hu, hfirst⟩ := exists_first_unentered hex
    simp [step_unentered hl (Bool.eq_false_of_not_eq_true hrst) hc hu hfirst]

/-- A step is refused as an illegal configuration exactly when it is one. -/
theorem step_eq_illegalConfig_iff (s : State) :
    step s = .refused .illegalConfig ↔ s.legal = false := by
  refine ⟨fun h => ?_, step_illegal⟩
  by_contra hl
  exact step_legal_not_refused (Bool.eq_true_of_not_eq_false hl) _ h

/-- Settles O5: only an illegal block is refused so, and illegality is the ranges of R6 and R7. -/
theorem exactlyIllegalConfigurationsAreRefused :
    Obligations.ExactlyIllegalConfigurationsAreRefused := by
  intro s
  simp only [step_eq_illegalConfig_iff, State.legal_eq_false_iff,
    ChannelConfig.legal_eq_false_iff]

/-- Settles O18: the three outcomes of R14, one lemma each. -/
theorem unenteredCodeStopsTheStep : Obligations.UnenteredCodeStopsTheStep := by
  intro s
  refine ⟨step_illegal, ?_, step_entered⟩
  intro hl hr ch c hc hu hfirst
  exact step_unentered hl hr hc ((FrState.unentered_iff _).2 hu) hfirst

end Sys2Proof.Machine

namespace Sys2Proof.Machine

/-! The invariants of 10_state.md R34 and R37: what each stage of a cycle keeps, what a reset cycle
establishes, and from both what a step keeps. -/

/-! ### The configuration over a step (00_scope.md R8) -/

/-- The ranges of R6 for the block, and R7 in every channel. -/
theorem State.legal_iff (s : State) :
    s.legal = true ↔
      (1 ≤ s.numCh ∧ s.numCh ≤ 256 ∧ 1 ≤ s.idleDefaultMs ∧ s.idleDefaultMs ≤ 4294967295) ∧
        ∀ c ∈ s.chans, c.cfg.legal = true := by
  simp [State.legal, and_assoc]

/-- The range of `BUF_CAP` (R7). -/
theorem ChannelConfig.legal_bufCap {cfg : ChannelConfig} (h : cfg.legal = true) :
    16 ≤ cfg.bufCap ∧ cfg.bufCap ≤ 65535 := by
  simp only [ChannelConfig.legal, Bool.and_eq_true, decide_eq_true_eq] at h
  omega

/-- Every channel a step leaves is the outcome of its own cycle. -/
theorem step_mem_chans {s t : State} {c' : Channel} (h : step s = .next t) (hc' : c' ∈ t.chans) :
    ∃ j c r, s.chans[j]? = some c ∧
      channelCycle j s.inp.rst (s.sampled j) c.cleared = .next r ∧ c' = r.1 := by
  obtain ⟨-, -, -, -, -, -, hlen, hcycles, -⟩ := step_next h
  obtain ⟨j, hj, rfl⟩ := List.getElem_of_mem hc'
  obtain ⟨c, r, hc, hr, ht⟩ := hcycles j (by simpa [State.numCh, hlen] using hj)
  rw [List.getElem?_eq_getElem hj] at ht
  injection ht with ht
  exact ⟨j, c, r, hc, hr, ht⟩

/-- A step answers only for a legal block, and leaves it legal. -/
theorem step_keeps_legal {s t : State} (h : step s = .next t) : t.legal = true := by
  obtain ⟨hl, hidle, -, -, -, -, hlen, -, -⟩ := step_next h
  obtain ⟨hblock, hchans⟩ := (State.legal_iff s).1 hl
  refine (State.legal_iff t).2 ⟨by simpa [State.numCh, hlen, hidle] using hblock, fun c' hc' => ?_⟩
  obtain ⟨j, c, r, hc, hr, rfl⟩ := step_mem_chans h hc'
  rw [channelCycle_cfg hr]
  exact hchans c (List.mem_of_getElem? hc)

/-! ### Bytes the buffer holds -/

theorem startMarker_length : startMarker.length = 8 := rfl

theorem endMarker_length : endMarker.length = 5 := rfl

/-- END cannot lie over START: wherever it begins below offset 8, it puts 0x1B or 0x1A on one of
START's last four bytes, which are 0x01. -/
theorem Memory.Holds.eight_le_of_endMarker {m : List Host.Cell} {a : Nat}
    (hs : Memory.Holds m 0 startMarker) (he : Memory.Holds m a endMarker) : 8 ≤ a := by
  by_contra ha
  have hclash : ∀ a, a < 8 → startMarker[max 4 a]? ≠ endMarker[max 4 a - a]? := by decide
  refine hclash a (by omega) ?_
  rw [← hs (max 4 a) (by rw [startMarker_length]; omega),
    ← he (max 4 a - a) (by rw [endMarker_length]; omega)]
  congr 1
  omega

/-- An append leaves the bytes below `len`. -/
theorem append_read?_below (c : Channel) (b : Byte) {x : Nat} (hx : x < c.fr.len.toNat) :
    Memory.read? (c.append b).buf x = Memory.read? c.buf x := by
  rw [append_read?, if_neg fun h => Nat.ne_of_lt hx h.1]

/-- What is held below `len` is held after an append. -/
theorem Memory.Holds.append {c : Channel} {off : Nat} {bs : List Byte} (b : Byte)
    (h : Memory.Holds c.buf off bs) (hlen : off + bs.length ≤ c.fr.len.toNat) :
    Memory.Holds (c.append b).buf off bs := fun k hk => by
  rw [append_read?_below c b (by omega), h k hk]

/-- An append writes offset `len`. -/
theorem Memory.WrittenBelow.append {c : Channel} (b : Byte)
    (h : Memory.WrittenBelow c.buf c.fr.len.toNat) (hcap : c.fr.len.toNat < c.cfg.bufCap) :
    Memory.WrittenBelow (c.append b).buf (c.fr.len.toNat + 1) := by
  intro x hx
  rcases Nat.lt_succ_iff_lt_or_eq.1 hx with hlt | rfl
  · rw [append_read?_below c b hlt]
    exact h x hlt
  · simp [append_read?, hcap]

/-- A byte back from `len`, where everything below `len` is written, is the byte listed there. -/
theorem read?_eq_byteBack (ch : Nat) {c : Channel} {k : Nat}
    (h : Memory.WrittenBelow c.buf c.fr.len.toNat) (hk : 1 ≤ k) (hlen : k ≤ c.fr.len.toNat) :
    Memory.read? c.buf (c.fr.len.toNat - k) = some (c.byteBack ch k) := by
  obtain ⟨x, hx⟩ := Option.isSome_iff_exists.1 (h (c.fr.len.toNat - k) (by omega))
  simp [Channel.byteBack, hlen, memRead, hx]

/-- Where the end test succeeds, the append leaves END as the last five bytes. -/
theorem append_holds_endMarker {ch : Nat} {c : Channel} {b : Byte} (ht : c.endTest ch b = true)
    (hw : Memory.WrittenBelow c.buf c.fr.len.toNat) (h4 : 4 ≤ c.fr.len.toNat)
    (hcap : c.fr.len.toNat < c.cfg.bufCap) :
    Memory.Holds (c.append b).buf (c.fr.len.toNat - 4) endMarker := by
  intro k hk
  rw [← beq_iff_eq.1 (show (_ == endMarker) = true from ht)]
  rcases Nat.lt_succ_iff_lt_or_eq.1 (show k < 4 + 1 from hk) with hlt | rfl
  · have hback : c.fr.len.toNat - 4 + k = c.fr.len.toNat - (4 - k) := by omega
    rw [hback, append_read?_below c b (by omega), read?_eq_byteBack ch hw (by omega) (by omega)]
    interval_cases k <;> rfl
  · rw [Nat.sub_add_cancel h4, append_read?, if_pos ⟨rfl, hcap⟩]
    rfl

/-- After AS.START the buffer holds START and nothing below offset 8 is unwritten. -/
theorem startFrame_holds_startMarker {c : Channel} (now : Time) (h : 8 ≤ c.cfg.bufCap) :
    Memory.Holds (c.startFrame now).buf 0 startMarker ∧
      Memory.WrittenBelow (c.startFrame now).buf 8 := by
  have hread : ∀ x, x < 8 → Memory.read? (c.startFrame now).buf x = startMarker[x]? := by
    intro x hx
    rw [startFrame_read?, if_pos ⟨hx, by omega⟩]
  refine ⟨fun k hk => by rw [Nat.zero_add, hread k hk], fun x hx => ?_⟩
  rw [hread x hx, List.getElem?_eq_getElem hx]
  rfl

/-! ### The frame reader's invariant, by state (R34) -/

theorem readerInv_awaiting {c : Channel} (hs : c.fr.st = .awaitingStart) :
    c.ReaderInv ↔ c.fr.trl = 0 ∧ c.fr.len.toNat ≤ c.cfg.bufCap := by
  simp only [Channel.ReaderInv, hs]

theorem readerInv_body {c : Channel} (hs : c.fr.st = .readingBody) :
    c.ReaderInv ↔
      8 ≤ c.fr.len.toNat ∧ c.fr.len.toNat + 3 ≤ c.cfg.bufCap ∧ c.fr.trl = 0 ∧
        Memory.Holds c.buf 0 startMarker ∧ Memory.WrittenBelow c.buf c.fr.len.toNat := by
  simp only [Channel.ReaderInv, hs]

theorem readerInv_trailer {c : Channel} (hs : c.fr.st = .readingTrailer) :
    c.ReaderInv ↔
      13 ≤ c.fr.len.toNat ∧
        c.fr.len.toNat + (3 - c.fr.trl.toNat) ≤ c.cfg.bufCap ∧ c.fr.trl ≠ 3 ∧
        Memory.Holds c.buf 0 startMarker ∧
        Memory.Holds c.buf (c.fr.len.toNat - c.fr.trl.toNat - 5) endMarker ∧
        Memory.WrittenBelow c.buf c.fr.len.toNat := by
  simp only [Channel.ReaderInv, hs]

theorem readerInv_complete {c : Channel} (hs : c.fr.st = .complete) :
    c.ReaderInv ↔
      16 ≤ c.fr.len.toNat ∧ c.fr.len.toNat ≤ c.cfg.bufCap ∧ c.fr.trl = 3 ∧
        Memory.Holds c.buf 0 startMarker ∧ Memory.Holds c.buf (c.fr.len.toNat - 8) endMarker ∧
        Memory.WrittenBelow c.buf c.fr.len.toNat := by
  simp only [Channel.ReaderInv, hs]

/-- The invariant excludes the codes no rule enters. -/
theorem readerInv_entered {c : Channel} (hi : c.ReaderInv) : c.fr.st.unentered = false := by
  by_contra hu
  have hu' := Bool.eq_true_of_not_eq_false hu
  rcases (FrState.unentered_iff c.fr.st).1 hu' with hs | hs | hs | hs <;>
    simp only [Channel.ReaderInv, hs] at hi

/-- The reader's invariant is about its registers, the buffer and the capacity. -/
theorem readerInv_congr {c c' : Channel} (hcfg : c'.cfg = c.cfg) (hfr : c'.fr = c.fr)
    (hbuf : c'.buf = c.buf) : c'.ReaderInv ↔ c.ReaderInv := by
  simp only [Channel.ReaderInv, hcfg, hfr, hbuf]

/-! ### What the reader's procedures establish -/

theorem toAwait_readerInv (c : Channel) (now : Time) : (c.toAwait now).ReaderInv :=
  (readerInv_awaiting rfl).2 ⟨rfl, Nat.zero_le _⟩

theorem afterTimeout_readerInv (c : Channel) (now : Time) (i : ChanIn) :
    (c.afterTimeout now i).ReaderInv :=
  (readerInv_awaiting rfl).2 ⟨rfl, Nat.zero_le _⟩

/-- AS.ADV and AS.MISS: R34 leaves the match position free in AwaitingStart. -/
theorem readerInv_withMatch {c : Channel} (hs : c.fr.st = .awaitingStart) (hi : c.ReaderInv)
    (n : BitVec 3) : { c with fr := { c.fr with mp := n } }.ReaderInv :=
  (readerInv_awaiting (by exact hs)).2 ((readerInv_awaiting hs).1 hi)

theorem startFrame_readerInv {c : Channel} (now : Time) (h : 16 ≤ c.cfg.bufCap) :
    (c.startFrame now).ReaderInv := by
  obtain ⟨hstart, hw⟩ := startFrame_holds_startMarker now (c := c) (by omega)
  exact (readerInv_body rfl).2 ⟨by simp, by simp; omega, rfl, hstart, hw⟩

/-- `len + 1` fits its register below a capacity that does (00_scope.md R11). -/
theorem append_len_toNat {c : Channel} (b : Byte) (hl : c.cfg.legal = true)
    (h : c.fr.len.toNat < c.cfg.bufCap) : (c.append b).fr.len.toNat = c.fr.len.toNat + 1 := by
  obtain ⟨-, hcap⟩ := ChannelConfig.legal_bufCap hl
  rw [Channel.append_fr_len, BitVec.toNat_add_of_lt] <;> simp; omega

/-- RB.APP within the reserve. -/
theorem append_readerInv_body {c : Channel} (b : Byte) (hl : c.cfg.legal = true)
    (hs : c.fr.st = .readingBody) (hi : c.ReaderInv)
    (hroom : c.fr.len.toNat + 1 + trailerLen ≤ c.cfg.bufCap) : (c.append b).ReaderInv := by
  obtain ⟨h8, -, htrl, hstart, hw⟩ := (readerInv_body hs).1 hi
  unfold trailerLen at hroom
  have hcap : c.fr.len.toNat < c.cfg.bufCap := by omega
  have hlen := append_len_toNat b hl hcap
  refine (readerInv_body (c := c.append b) hs).2
    ⟨by omega, by rw [hlen]; exact hroom, htrl, hstart.append b h8, ?_⟩
  rw [hlen]
  exact hw.append b hcap

/-- RB.END within the reserve: END stands behind START, so that `len` is 13 or more. -/
theorem append_readerInv_trailerBegins {ch : Nat} {c : Channel} {b : Byte} (now : Time)
    (hl : c.cfg.legal = true) (hs : c.fr.st = .readingBody) (hi : c.ReaderInv)
    (hroom : c.fr.len.toNat + 1 + trailerLen ≤ c.cfg.bufCap) (ht : c.endTest ch b = true) :
    { c.append b with
      fr := { (c.append b).fr with st := .readingTrailer, trl := 0, tRef := now } }.ReaderInv := by
  obtain ⟨h8, -, -, hstart, hw⟩ := (readerInv_body hs).1 hi
  unfold trailerLen at hroom
  have hcap : c.fr.len.toNat < c.cfg.bufCap := by omega
  have hlen := append_len_toNat b hl hcap
  have hstart' := hstart.append b h8
  have hend := append_holds_endMarker ht hw (by omega) hcap
  have hapart := hstart'.eight_le_of_endMarker hend
  refine (readerInv_trailer rfl).2 ⟨?_, ?_, nofun, hstart', ?_, ?_⟩ <;> dsimp only <;> rw [hlen]
  · omega
  · exact hroom
  · exact hend
  · exact hw.append b hcap

/-- In ReadingTrailer END stands behind START, so that `len` is 13 or more without the trailer's
bytes. -/
theorem readerInv_trailer_len {c : Channel} (hs : c.fr.st = .readingTrailer) (hi : c.ReaderInv) :
    13 + c.fr.trl.toNat ≤ c.fr.len.toNat := by
  obtain ⟨h13, -, -, hstart, hend, -⟩ := (readerInv_trailer hs).1 hi
  have hapart := hstart.eight_le_of_endMarker hend
  omega

/-- RT.APP: `trl` is 0 or 1 and goes on to the next. -/
theorem append_readerInv_trailer {c : Channel} (b : Byte) (hl : c.cfg.legal = true)
    (hs : c.fr.st = .readingTrailer) (hi : c.ReaderInv) (h2 : c.fr.trl ≠ 2) :
    { c.append b with
      fr := { (c.append b).fr with trl := (c.append b).fr.trl + 1 } }.ReaderInv := by
  have hapart := readerInv_trailer_len hs hi
  obtain ⟨h13, hroom, h3, hstart, hend, hw⟩ := (readerInv_trailer hs).1 hi
  have htrl : ∀ n : BitVec 2, n ≠ 2 → n ≠ 3 →
      n.toNat < 2 ∧ (n + 1).toNat = n.toNat + 1 ∧ n + 1 ≠ 3 := by decide
  obtain ⟨hlt, hnext, hne⟩ := htrl c.fr.trl h2 h3
  have hcap : c.fr.len.toNat < c.cfg.bufCap := by omega
  refine (readerInv_trailer (by exact hs)).2
    ⟨?_, ?_, hne, hstart.append b (Nat.le_trans (by decide) h13), ?_, ?_⟩ <;>
    dsimp only <;> rw [append_len_toNat b hl hcap]
  · omega
  · rw [Channel.append_fr_trl, hnext, Channel.append_cfg]
    omega
  · rw [Channel.append_fr_trl, hnext, Nat.add_sub_add_right]
    exact hend.append b (by rw [endMarker_length]; omega)
  · exact hw.append b hcap

/-- RT.LAST: the frame is complete, its last eight bytes END and the trailer. -/
theorem append_readerInv_complete {c : Channel} (b : Byte) (now : Time) (hl : c.cfg.legal = true)
    (hs : c.fr.st = .readingTrailer) (hi : c.ReaderInv) (h2 : c.fr.trl = 2) :
    { c.append b with
      fr := { (c.append b).fr with st := .complete, trl := 3, tRef := now } }.ReaderInv := by
  have hapart := readerInv_trailer_len hs hi
  obtain ⟨h13, hroom, -, hstart, hend, hw⟩ := (readerInv_trailer hs).1 hi
  have htrl : c.fr.trl.toNat = 2 := by rw [h2]; rfl
  rw [htrl] at hapart hroom hend
  have hcap : c.fr.len.toNat < c.cfg.bufCap := by omega
  refine (readerInv_complete rfl).2
    ⟨?_, ?_, rfl, hstart.append b (Nat.le_trans (by decide) h13), ?_, ?_⟩ <;>
    dsimp only <;> rw [append_len_toNat b hl hcap]
  · omega
  · exact hcap
  · rw [show c.fr.len.toNat + 1 - 8 = c.fr.len.toNat - 2 - 5 by omega]
    exact hend.append b (by rw [endMarker_length]; omega)
  · exact hw.append b hcap

/-! ### What each stage keeps -/

/-- The reader's stage keeps R34, in every state the invariant allows. -/
theorem readerEffect_keeps_readerInv {ch : Nat} {rst : Bool} {e : Sampled} {c : Channel}
    {r : Channel × Option EventInfo} (hl : c.cfg.legal = true) (hi : c.ReaderInv)
    (h : effect (readerOp ch rst e c) e c = .next r) : r.1.ReaderInv := by
  cases rst
  case true =>
    injection h with h
    exact h ▸ toAwait_readerInv c e.now
  case false =>
    have hu := readerInv_entered hi
    cases hs : c.fr.st <;> rw [hs] at hu
    case awaitingStart =>
      rw [readerOp_awaiting ch e hs] at h
      split_ifs at h <;> injection h with h <;> subst h
      · exact afterTimeout_readerInv c e.now e.inp
      · exact hi
      · exact readerInv_withMatch hs hi _
      · exact startFrame_readerInv e.now (ChannelConfig.legal_bufCap hl).1
      · exact readerInv_withMatch hs hi _
    case readingBody =>
      rw [readerOp_body ch e hs] at h
      split_ifs at h with _ _ hovf hend <;> injection h with h <;> subst h
      · exact afterTimeout_readerInv c e.now e.inp
      · exact hi
      · exact toAwait_readerInv c e.now
      · exact append_readerInv_trailerBegins e.now hl hs hi (Nat.le_of_not_lt hovf) hend
      · exact append_readerInv_body e.inp.rxData hl hs hi (Nat.le_of_not_lt hovf)
    case readingTrailer =>
      rw [readerOp_trailer ch e hs] at h
      split_ifs at h with _ _ h2 <;> injection h with h <;> subst h
      · exact afterTimeout_readerInv c e.now e.inp
      · exact hi
      · exact append_readerInv_complete e.inp.rxData e.now hl hs hi h2
      · exact append_readerInv_trailer e.inp.rxData hl hs hi h2
    case complete =>
      rw [readerOp_complete ch e hs] at h
      split_ifs at h <;> injection h with h <;> subst h
      · exact toAwait_readerInv c e.now
      · exact hi
    all_goals cases hu

/-- Every operation keeps the buffer's canonical form and bound (20_memory.md R66). -/
theorem effect_keeps_bufferOk {i : Instr} {e : Sampled} {c : Channel}
    {r : Channel × Option EventInfo} (h : effect i e c = .next r) (hb : c.BufferOk) :
    r.1.BufferOk := by
  cases i <;> cases h
  case asStart => exact startFrame_bufferOk e.now hb
  case rbApp | rbEnd | rtApp | rtLast => exact append_bufferOk e.inp.rxData hb
  all_goals exact hb

/-- Only the reader's stage selects a frame-reader operation. -/
theorem stageOp_isReader (g : Stage) (ch : Nat) (rst : Bool) (e : Sampled) (c : Channel) :
    (stageOp g ch rst e c).isReader = decide (g = .reader) := by
  cases g
  case reader => unfold stageOp readerOp readerRow; split_ifs <;> rfl
  case retarget => unfold stageOp retargetOp retargetRow; split_ifs <;> rfl
  case tick => unfold stageOp tickOp tickRow; split_ifs <;> rfl

/-- A frame-reader operation leaves the pulse generator's registers (40_frame_reader.md R100). -/
theorem effect_pg {i : Instr} {e : Sampled} {c : Channel} {r : Channel × Option EventInfo}
    (hi : i.isReader = true) (h : effect i e c = .next r) : r.1.pg = c.pg := by
  cases i <;> cases h
  case pgReset | rtgNone | rtgI | rtgA | rtgDgi | rtgDga | tkDis | tkWait | tkRise | tkFall =>
    cases hi
  all_goals rfl

/-- A pulse generator operation leaves the reader's registers and the buffer (R100, 20_memory.md
R51). -/
theorem effect_fr_buf {i : Instr} {e : Sampled} {c : Channel} {r : Channel × Option EventInfo}
    (hi : i.isReader = false) (h : effect i e c = .next r) :
    r.1.fr = c.fr ∧ r.1.buf = c.buf := by
  cases i <;> cases h
  case pgReset | rtgNone | rtgI | rtgA | rtgDgi | rtgDga | tkDis | tkWait | tkRise | tkFall =>
    exact ⟨rfl, rfl⟩
  all_goals cases hi

/-! ### The pulse generator's invariant (R37) -/

theorem pulseInv_enabled {c : Channel} (hn : c.cfg.s0En = true) :
    c.PulseInv ↔ c.pg.pulseOut = c.pg.phase.code := by
  simp only [Channel.PulseInv, hn, if_true]

theorem pulseInv_disabled {c : Channel} (hn : c.cfg.s0En = false) :
    c.PulseInv ↔ c.pg.pulseOut = false ∧ c.pg.phase = .idle ∧ c.pg.target = c.pg.idleMs := by
  simp [Channel.PulseInv, hn]

/-- The pulse generator's invariant is about its registers and `S0_EN`. -/
theorem pulseInv_congr {c c' : Channel} (hcfg : c'.cfg = c.cfg) (hpg : c'.pg = c.pg) :
    c'.PulseInv ↔ c.PulseInv := by
  simp only [Channel.PulseInv, hcfg, hpg]

/-- A pulse generator in PG.Idle with its output low and `target` at `idle_ms`, enabled or not. -/
theorem pulseInv_of_idle {c : Channel} (hout : c.pg.pulseOut = false) (hph : c.pg.phase = .idle)
    (ht : c.pg.target = c.pg.idleMs) : c.PulseInv := by
  cases hn : c.cfg.s0En
  · exact (pulseInv_disabled hn).2 ⟨hout, hph, ht⟩
  · exact (pulseInv_enabled hn).2 (by rw [hout, hph]; rfl)

/-- The retarget stage keeps R37: in a disabled channel, whose phase is PG.Idle, a reading sets
`target` with `idle_ms`. -/
theorem retargetEffect_keeps_pulseInv {ch : Nat} {rst : Bool} {e : Sampled} {c : Channel}
    {r : Channel × Option EventInfo} (hi : c.PulseInv)
    (h : effect (retargetOp ch rst e c) e c = .next r) : r.1.PulseInv := by
  cases rst
  case true =>
    injection h with h
    exact h ▸ pulseInv_of_idle rfl rfl rfl
  case false =>
    rw [retargetOp_eq] at h
    cases hn : c.cfg.s0En
    case true =>
      have hout := (pulseInv_enabled hn).1 hi
      split_ifs at h <;> cases h <;> exact (pulseInv_enabled (by exact hn)).2 hout
    case false =>
      obtain ⟨hout, hph, -⟩ := (pulseInv_disabled hn).1 hi
      simp only [hph, Phase.code, Bool.false_eq_true, if_false] at h
      split_ifs at h <;> cases h
      · exact hi
      · exact pulseInv_of_idle hout hph rfl
      · exact pulseInv_of_idle hout hph rfl

/-- The tick stage keeps R37: only an enabled channel flips its phase, and its output with it. -/
theorem tickEffect_keeps_pulseInv {ch : Nat} {e : Sampled} {c : Channel}
    {r : Channel × Option EventInfo} (hi : c.PulseInv)
    (h : effect (tickOp ch e c) e c = .next r) : r.1.PulseInv := by
  unfold tickOp tickRow at h
  cases hn : c.cfg.s0En <;> rw [hn] at h
  case false =>
    obtain ⟨-, hph, ht⟩ := (pulseInv_disabled hn).1 hi
    cases h
    exact pulseInv_of_idle rfl hph ht
  case true =>
    simp only [Bool.not_true, Bool.false_eq_true, if_false] at h
    split_ifs at h <;> cases h
    · exact hi
    · exact (pulseInv_enabled (by exact hn)).2 rfl
    · exact (pulseInv_enabled (by exact hn)).2 rfl

/-! ### The invariant of a channel -/

/-- The invariant of a channel is about everything but its strobes. -/
theorem inv_congr {c c' : Channel} (hcfg : c'.cfg = c.cfg) (hfr : c'.fr = c.fr)
    (hbuf : c'.buf = c.buf) (hpg : c'.pg = c.pg) : c'.Inv ↔ c.Inv := by
  simp only [Channel.Inv, Channel.BufferOk, readerInv_congr hcfg hfr hbuf,
    pulseInv_congr hcfg hpg, hcfg, hbuf]

/-- Every stage keeps the invariant of its channel. -/
theorem stageEffect_keeps_inv {g : Stage} {ch : Nat} {rst : Bool} {e : Sampled} {c : Channel}
    {r : Channel × List EventInfo} (hl : c.cfg.legal = true) (hi : c.Inv)
    (h : stageEffect g ch rst e c = .next r) : r.1.Inv := by
  obtain ⟨x, hx, hr⟩ := chain_eq_next.1 h
  cases hr
  obtain ⟨hb, hreader, hpulse⟩ := hi
  have hcfg := effect_cfg hx
  have hsel := stageOp_isReader g ch rst e c
  refine (inv_congr (committed_cfg x) (committed_fr x) (committed_buf x) (committed_pg x)).2
    ⟨effect_keeps_bufferOk hx hb, ?_⟩
  cases g
  case reader =>
    exact ⟨readerEffect_keeps_readerInv hl hreader hx,
      (pulseInv_congr hcfg (effect_pg hsel hx)).2 hpulse⟩
  case retarget =>
    obtain ⟨hfr, hbuf⟩ := effect_fr_buf hsel hx
    exact ⟨(readerInv_congr hcfg hfr hbuf).2 hreader, retargetEffect_keeps_pulseInv hpulse hx⟩
  case tick =>
    obtain ⟨hfr, hbuf⟩ := effect_fr_buf hsel hx
    exact ⟨(readerInv_congr hcfg hfr hbuf).2 hreader, tickEffect_keeps_pulseInv hpulse hx⟩

/-- A channel's cycle keeps its invariant. -/
theorem channelCycle_keeps_inv {ch : Nat} {rst : Bool} {e : Sampled} {c : Channel}
    {r : Channel × List EventInfo} (hl : c.cfg.legal = true) (hi : c.Inv)
    (h : channelCycle ch rst e c = .next r) : r.1.Inv := by
  obtain ⟨r1, h1, h⟩ := chain_eq_next.1 h
  obtain ⟨r2, h2, h⟩ := chain_eq_next.1 h
  have hcfg1 := stageEffect_cfg h1
  have hcfg2 := (stageEffect_cfg h2).trans hcfg1
  have hi1 := stageEffect_keeps_inv hl hi h1
  have hi2 := stageEffect_keeps_inv (hcfg1 ▸ hl) hi1 h2
  split at h
  · cases h
    exact hi2
  · obtain ⟨r3, h3, h⟩ := chain_eq_next.1 h
    have hi3 := stageEffect_keeps_inv (hcfg2 ▸ hl) hi2 h3
    cases h
    exact hi3

/-- A reset cycle establishes the invariant of a channel whose buffer is one
(70_reset_and_hazards.md R235). -/
theorem channelCycle_reset_inv {ch : Nat} {e : Sampled} {c : Channel}
    {r : Channel × List EventInfo} (hb : c.BufferOk) (h : channelCycle ch true e c = .next r) :
    r.1.Inv := by
  rw [channelCycle_reset] at h
  cases h
  exact ⟨hb, toAwait_readerInv c e.now, pulseInv_of_idle rfl rfl rfl⟩

/-! ### The invariant of the block -/

/-- A step meets the invariant if every channel's cycle does. -/
theorem step_inv {s t : State} (h : step s = .next t)
    (hc : ∀ c ∈ s.chans, ∀ j r,
      channelCycle j s.inp.rst (s.sampled j) c.cleared = .next r → r.1.Inv) : t.Inv := by
  refine ⟨step_keeps_legal h, fun c' hc' => ?_⟩
  obtain ⟨j, c, r, hget, hr, rfl⟩ := step_mem_chans h hc'
  exact hc c (List.mem_of_getElem? hget) j r hr

/-- Settles O15: the invariant excludes the unentered codes, so that the step answers, and every
stage keeps it. -/
theorem everyStepKeepsInvariant : Obligations.EveryStepKeepsInvariant := by
  rintro s ⟨hl, hi⟩
  have hentered : ∀ c ∈ s.chans, c.fr.st.unentered = false := fun c hc => by
    obtain ⟨-, hreader, -⟩ := hi c hc
    exact readerInv_entered hreader
  obtain ⟨t, ht⟩ := step_entered hl (.inr hentered)
  refine ⟨t, ht, step_inv ht fun c hc j r hr => ?_⟩
  have hlegal := ((State.legal_iff s).1 hl).2 c hc
  exact channelCycle_keeps_inv (c := c.cleared) hlegal ((inv_congr rfl rfl rfl rfl).2 (hi c hc)) hr

/-- Settles O14: a reset cycle answers in every state code and sets every register the invariants
speak of. -/
theorem resetCycleEstablishesInvariant : Obligations.ResetCycleEstablishesInvariant := by
  intro s hl hb hrst
  obtain ⟨t, ht⟩ := step_entered hl (.inl hrst)
  refine ⟨t, ht, step_inv ht fun c hc j r hr => ?_⟩
  rw [hrst] at hr
  exact channelCycle_reset_inv (c := c.cleared) (hb c hc) hr

end Sys2Proof.Machine

namespace Sys2Proof.Machine

/-! What a cycle reads of its inputs and what it shows: a byte that is not consumed has no effect
(10_state.md R28), and the outputs (R27 to R29, 20_memory.md R55). -/

/-! ### The handshake and the frame port as conditions on the state (R28, R29) -/

/-- The states a timeout is evaluated in (40_frame_reader.md R121). -/
theorem FrState.timed_iff (st : FrState) :
    st.timed = true ↔ st = .awaitingStart ∨ st = .readingBody ∨ st = .readingTrailer := by
  cases st <;> decide

/-- A state with no timeout is Complete or one that no rule enters (30_encoding.md R72). -/
theorem FrState.unentered_of_not_timed {st : FrState} (ht : st.timed = false)
    (hs : st ≠ .complete) : st.unentered = true := by
  cases st
  case awaitingStart | readingBody | readingTrailer => cases ht
  case complete => exact absurd rfl hs
  all_goals rfl

/-- The reader takes bytes in the states its timeout is evaluated in. -/
theorem rxReady_eq (c : Channel) (rst : Bool) : c.rxReady rst = (!rst && c.fr.st.timed) := by
  unfold Channel.rxReady
  cases c.fr.st <;> rfl

theorem frameValid_iff (c : Channel) (rst : Bool) :
    c.frameValid rst = true ↔ rst = false ∧ c.fr.st = .complete := by
  simp [Channel.frameValid]

/-! ### A byte that is not consumed (R28, 70_reset_and_hazards.md R242) -/

/-- A timeout in a cycle with no byte leaves ToAwait. -/
theorem afterTimeout_no_byte (c : Channel) (now : Time) {i : ChanIn} (hv : i.rxValid = false) :
    c.afterTimeout now i = c.toAwait now := by
  simp [Channel.afterTimeout, Channel.toAwait, hv]

/-- With no byte presented in a state that takes bytes, the reader times out or waits. -/
theorem readerEffect_no_byte (ch : Nat) {e : Sampled} {c : Channel} (ht : c.fr.st.timed = true)
    (hv : e.inp.rxValid = false) :
    effect (readerOp ch false e c) e c =
      .next (if elapsed e.now c.fr.tRef > c.cfg.timeoutMs then
          (c.toAwait e.now, some (.framingTimeout c.fr.st.code))
        else (c, none)) := by
  rcases (FrState.timed_iff c.fr.st).1 ht with hs | hs | hs
  · rw [readerOp_awaiting ch e hs, if_pos hv, hs]
    split <;> simp only [effect, afterTimeout_no_byte c e.now hv]
  · rw [readerOp_body ch e hs, if_pos hv, hs]
    split <;> simp only [effect, afterTimeout_no_byte c e.now hv]
  · rw [readerOp_trailer ch e hs, if_pos hv, hs]
    split <;> simp only [effect, afterTimeout_no_byte c e.now hv]

/-- In a code no rule enters, the reader's stage faults (40_frame_reader.md R102 to R104). -/
theorem readerEffect_unentered (ch : Nat) (e : Sampled) {c : Channel}
    (hu : c.fr.st.unentered = true) :
    effect (readerOp ch false e c) e c = .fault (.unreachableState c.chId c.fr.st.code) := by
  rcases (FrState.unentered_iff c.fr.st).1 hu with hs | hs | hs | hs <;>
    simp [readerOp, readerRow, effect, hs, FrState.code]

/-- What a channel is offered, with another value on `rx_data`. -/
def Sampled.withByte (e : Sampled) (b : Byte) : Sampled :=
  { e with inp := { e.inp with rxData := b } }

/-- The reader's stage does the same with any other value on `rx_data` if no byte is consumed: under
reset, with no byte to take, and in the states that take none. -/
theorem readerEffect_unconsumed (ch : Nat) {rst : Bool} {e : Sampled} {c : Channel} (b : Byte)
    (h : c.consumes rst e.inp = false) :
    effect (readerOp ch rst (e.withByte b) c) (e.withByte b) c =
      effect (readerOp ch rst e c) e c := by
  cases rst
  case true => rfl
  case false =>
    cases ht : c.fr.st.timed
    case true =>
      have hv : e.inp.rxValid = false := by simpa [Channel.consumes, rxReady_eq, ht] using h
      rw [readerEffect_no_byte ch ht hv, readerEffect_no_byte ch (e := e.withByte b) ht hv]
      rfl
    case false =>
      by_cases hs : c.fr.st = .complete
      · rw [readerOp_complete ch e hs, readerOp_complete ch (e.withByte b) hs]
        cases hk : e.inp.frameAck <;> simp only [Sampled.withByte, hk] <;> rfl
      · have hu := FrState.unentered_of_not_timed ht hs
        rw [readerEffect_unentered ch e hu, readerEffect_unentered ch (e.withByte b) hu]

/-- A commit in a cycle at the same time with other inputs, which it does not read. -/
theorem commit_withInputs (s : State) (ch : Nat) (r : Channel × Option EventInfo) {inp : CycleIn}
    (hnow : inp.nowMs = s.inp.nowMs) :
    State.commit { s with inp := inp } ch r = { s.commit ch r with inp := inp } := by
  obtain ⟨c, _ | x⟩ := r
  · rfl
  · simp [State.commit, State.raise, State.now, hnow]

/-- The reader's stage with another value on `rx_data`, if no byte is consumed. -/
theorem runStage_reader_unconsumed {s : State} {inp : CycleIn} {ch : Nat} {c : Channel} {b : Byte}
    (hc : s.chans[ch]? = some c) (hrst : inp.rst = s.inp.rst) (hnow : inp.nowMs = s.inp.nowMs)
    (hin : State.chanIn { s with inp := inp } ch = { s.chanIn ch with rxData := b })
    (h : c.consumes s.inp.rst (s.chanIn ch) = false) :
    runStage .reader ch { s with inp := inp } =
      chain (runStage .reader ch s) fun t => .next { t with inp := inp } := by
  have hsampled : State.sampled { s with inp := inp } ch = (s.sampled ch).withByte b := by
    simp only [State.sampled, Sampled.withByte, State.now, hnow, hin]
  have heffect := readerEffect_unconsumed ch (e := s.sampled ch) b h
  rw [runStage_eq .reader hc, runStage_eq .reader (s := { s with inp := inp }) hc, hsampled, hrst,
    chain_assoc]
  simp only [stageOp, heffect, chain_next, commit_withInputs s ch _ hnow]

/-- Settles O45: without the byte the reader's stage only waits, times out, holds or delivers a frame,
resets or faults, and none of these reads `rx_data`. -/
theorem unconsumedByteHasNoEffect : Obligations.UnconsumedByteHasNoEffect := by
  intro s s' ch c b hc hs' hrst hnow hin hcons
  rw [hs'] at hin ⊢
  rw [runStage_reader_unconsumed hc hrst hnow hin hcons]
  exact ⟨fun t ht => by rw [ht]; rfl, fun f hf => by rw [hf]; rfl⟩

/-! ### The outputs of a cycle (R27, R29, 20_memory.md R55) -/

/-- While a frame is held, its length and channel are shown and its bytes can be read. -/
theorem framePort_of_frameValid (ch cycle : Nat) {c : Channel} {rst : Bool} (a : BitVec 16)
    (h : c.frameValid rst = true) :
    c.frameLen ch cycle rst = c.fr.len ∧ c.frameCh ch cycle rst = c.chId ∧
      c.rdData ch cycle rst a = if a.toNat < c.fr.len.toNat then memRead ch c a.toNat else 0 :=
  ⟨if_pos h, if_pos h, if_pos h⟩

/-- The outputs of a cycle before the first reset (70_reset_and_hazards.md R233). -/
theorem cycleOutputs_drawn {s t : State} {ch : Nat} {c c' : Channel} (hc : s.chans[ch]? = some c)
    (hc' : t.chans[ch]? = some c') (hr : s.resetReached = false) :
    cycleOutputs s t ch = some (ChanOut.drawn ch s.cycle) := by
  simp [cycleOutputs, hc, hc', hr]

/-- The outputs of a cycle from the first reset cycle on. -/
theorem cycleOutputs_reached {s t : State} {ch : Nat} {c c' : Channel} (hc : s.chans[ch]? = some c)
    (hc' : t.chans[ch]? = some c') (hr : s.resetReached = true) :
    cycleOutputs s t ch = some
      { rxReady := c.rxReady s.inp.rst
        frameValid := c.frameValid s.inp.rst
        frameLen := c.frameLen ch s.cycle s.inp.rst
        frameCh := c.frameCh ch s.cycle s.inp.rst
        rdData := c.rdData ch s.cycle s.inp.rst (s.chanIn ch).rdAddr
        pulseOut := c.pg.pulseOut
        strobes := c'.strobes } := by
  simp [cycleOutputs, hc, hc', hr]

/-- Settles O48: the two halves of R233, and from the first reset cycle on each output by its own rule. -/
theorem outputsOfACycle : Obligations.OutputsOfACycle := by
  intro s t ch c c' hc hc'
  cases hr : s.resetReached
  case false =>
    obtain ⟨hwas, hrst⟩ := Bool.or_eq_false_iff.1 hr
    refine ⟨_, cycleOutputs_drawn hc hc' hr, fun _ _ => rfl, fun h => ?_⟩
    simp [hwas, hrst] at h
  case true =>
    refine ⟨_, cycleOutputs_reached hc hc' hr, fun hwas hrst => ?_, fun _ =>
      ⟨?_, frameValid_iff c s.inp.rst, fun hv => ?_, rfl, rfl⟩⟩
    · simp [State.resetReached, hwas, hrst] at hr
    · simp [rxReady_eq, FrState.timed_iff]
    · obtain ⟨hlen, hch, hdata⟩ := framePort_of_frameValid ch s.cycle (s.chanIn ch).rdAddr hv
      exact ⟨hlen, hch, fun hlt => hdata.trans (if_pos hlt),
        fun hge => hdata.trans (if_neg (Nat.not_lt.2 hge))⟩

end Sys2Proof.Machine

namespace Sys2Proof.Machine

/-! The frame buffer over an operation (20_memory.md): which operations write it and where, that nothing falls
past it, and what it holds in Complete. -/

/-! ### What an operation leaves of its channel and of the block -/

/-- An operation on a channel that exists, and that channel after it. -/
theorem exec_next_at {i : Instr} {s t : State} {ch : Nat} {c : Channel} (hi : i.channel = ch)
    (hc : s.chans[ch]? = some c) (h : exec i s = .next t) :
    ∃ r, effect i (s.sampled ch) c = .next r ∧ t = s.commit ch r ∧
      t.chans[ch]? = some (committed r) := by
  subst hi
  obtain ⟨c₀, r, hc₀, hr, rfl⟩ := exec_next h
  obtain rfl : c = c₀ := Option.some.inj (hc.symm.trans hc₀)
  exact ⟨r, hr, rfl, by rw [State.commit_chans, chans_set_same hc]⟩

/-- An operation that raises no event only sets its channel. -/
theorem exec_of_silent_effect {i : Instr} {s : State} {c c' : Channel}
    (hc : s.chans[i.channel]? = some c)
    (h : effect i (s.sampled i.channel) c = .next (c', none)) :
    exec i s = .next (s.setChannel i.channel c') := by
  rw [exec_eq_effect i hc, h]
  rfl

theorem exec_sameOutside {i : Instr} {s t : State} (h : exec i s = .next t) :
    s.SameOutside t i.channel := by
  obtain ⟨hidle, hinp, hscript, hcycle, hreset, hlen, hother, -⟩ := exec_frame h
  exact ⟨hidle, hinp, hscript, hcycle, hreset, hlen, hother⟩

/-- A commit changes no byte but those its channel's effect changed. -/
theorem commit_sameBytes {s : State} {ch : Nat} {c : Channel} {r : Channel × Option EventInfo}
    {stored : Option (Nat × Nat)} (hc : s.chans[ch]? = some c)
    (h : ∀ off, (∀ a n, stored = some (a, n) → off < a ∨ a + n ≤ off) →
      Memory.read? r.1.buf off = Memory.read? c.buf off) :
    s.SameBytes (s.commit ch r) ch stored := by
  intro j d d' off hd hd' hout
  rw [State.commit_chans] at hd'
  by_cases hj : j = ch
  · subst hj
    obtain rfl : c = d := Option.some.inj (hc.symm.trans hd)
    obtain rfl : committed r = d' := Option.some.inj ((chans_set_same hc _).symm.trans hd')
    rw [memRead, memRead, committed_buf, h off fun a n hs => hout a n hs rfl]
  · rw [chans_set_other hj, hd] at hd'
    rw [Option.some.inj hd']

/-- A strobe is no part of the buffer. -/
theorem committed_bufferOk {r : Channel × Option EventInfo} (h : r.1.BufferOk) :
    (committed r).BufferOk := by
  simpa only [Channel.BufferOk, committed_cfg, committed_buf] using h

/-! ### Which operations write the buffer, and where (20_memory.md R51, R53, R57) -/

/-- A write leaves every byte outside its bytes. -/
theorem memWrite_read?_outside {c : Channel} {a off : Nat} {bs : List Byte}
    (h : off < a ∨ a + bs.length ≤ off) :
    Memory.read? (memWrite c a bs).buf off = Memory.read? c.buf off := by
  rw [memWrite_read?, if_neg (by omega)]

/-- What a storing operation can do: one write, where `Instr.stores` says, with no event and nothing of the
channel changed but reader registers and the buffer. -/
theorem effect_of_storesBytes {i : Instr} {e : Sampled} {c : Channel}
    {r : Channel × Option EventInfo} (hi : i.storesBytes = true) (h : effect i e c = .next r) :
    ∃ c' off bs, r = (c', none) ∧ c' = { c with fr := c'.fr, buf := c'.buf } ∧
      i.stores c = some (off, bs.length) ∧ c'.buf = (memWrite c off bs).buf := by
  cases i <;> cases h
  case asStart => exact ⟨_, 0, startMarker, rfl, rfl, rfl, rfl⟩
  case rbApp | rbEnd | rtApp | rtLast =>
    exact ⟨_, c.fr.len.toNat, [e.inp.rxData], rfl, rfl, rfl, rfl⟩
  all_goals cases hi

theorem effect_buf_of_not_storesBytes {i : Instr} {e : Sampled} {c : Channel}
    {r : Channel × Option EventInfo} (hi : i.storesBytes = false) (h : effect i e c = .next r) :
    r.1.buf = c.buf := by
  cases i <;> cases h
  case asStart | rbApp | rbEnd | rtApp | rtLast => cases hi
  all_goals rfl

/-- No operation changes a byte past the buffer (R66). -/
theorem effect_read?_past {i : Instr} {e : Sampled} {c : Channel} {r : Channel × Option EventInfo}
    {off : Nat} (h : effect i e c = .next r) (hoff : c.cfg.bufCap ≤ off) :
    Memory.read? r.1.buf off = Memory.read? c.buf off := by
  cases hi : i.storesBytes
  case false => rw [effect_buf_of_not_storesBytes hi h]
  case true =>
    obtain ⟨c', a, bs, rfl, -, -, hbuf⟩ := effect_of_storesBytes hi h
    rw [hbuf, memWrite_read?, if_neg (by omega)]

/-- Settles O16: the channels after an operation are the others and its own, whose effect keeps the canonical
form and the bound. -/
theorem everyOperationKeepsBuffers : Obligations.EveryOperationKeepsBuffers := by
  intro i s t h hok c' hc'
  obtain ⟨c, r, hc, hr, rfl⟩ := exec_next h
  rw [State.commit_chans] at hc'
  rcases List.mem_or_eq_of_mem_set hc' with hmem | rfl
  · exact hok c' hmem
  · exact committed_bufferOk (effect_keeps_bufferOk hr (hok c (List.mem_of_getElem? hc)))

/-- Settles O44: another channel's buffer is in the operation's frame, and its own is left by an operation that
does not store. -/
theorem onlyStoringOperationsWriteTheBuffer :
    Obligations.OnlyStoringOperationsWriteTheBuffer := by
  intro i s t j d d' h hd hd' hne
  obtain ⟨-, -, -, -, -, -, hother⟩ := exec_sameOutside h
  have hj : j = i.channel := by
    by_contra hj
    rw [hother j hj, hd] at hd'
    exact hne (by rw [Option.some.inj hd'])
  obtain ⟨r, hr, -, hcr⟩ := exec_next_at hj.symm hd h
  obtain rfl : d' = committed r := Option.some.inj (hd'.symm.trans hcr)
  refine ⟨hj, Bool.eq_true_of_not_eq_false fun hi => hne ?_⟩
  rw [committed_buf, effect_buf_of_not_storesBytes hi hr]

/-- Settles O29: no effect reaches past the buffer, and an append there is the same operation without its
write. -/
theorem storePastTheBufferWritesNothing : Obligations.StorePastTheBufferWritesNothing := by
  intro s ch c hc
  refine ⟨fun i t c' off hi _ h hc' hoff => ?_, fun hpast => ?_⟩
  · obtain ⟨r, hr, -, hcr⟩ := exec_next_at hi hc h
    obtain rfl : c' = committed r := Option.some.inj (hc'.symm.trans hcr)
    rw [committed_buf, effect_read?_past hr hoff]
  · have happend := append_past (s.chanIn ch).rxData hpast
    refine ⟨fun k => ?_, fun k => ?_, fun k p => ?_, fun k p => ?_⟩ <;>
      exact exec_of_silent_effect hc (by simp [effect, Instr.channel, happend])

/-- Settles O50: a storing operation is one write and reader registers, and each operation's registers are read
off its effect. -/
theorem frameOfStoringOperations : Obligations.FrameOfStoringOperations := by
  intro i s t ch c hi hc hstores h
  obtain ⟨r, hr, ht, hcr⟩ := exec_next_at hi hc h
  obtain ⟨c', a, bs, rfl, hframe, hwhere, hbuf⟩ := effect_of_storesBytes hstores hr
  have hbytes : s.SameBytes t ch (i.stores c) := by
    rw [ht, hwhere]
    refine commit_sameBytes hc fun off hout => ?_
    rw [hbuf, memWrite_read?_outside (hout a bs.length rfl)]
  refine ⟨c', hcr, hi ▸ exec_sameOutside h, hbytes, by rw [ht]; rfl, hframe, ?_, ?_, ?_⟩
  · rintro ⟨k, rfl⟩
    cases hr
    rfl
  · rintro ⟨k, p, rfl⟩
    cases hr
    rfl
  · rintro (⟨k, rfl⟩ | ⟨k, p, rfl⟩) <;> cases hr <;> rfl

/-! ### The bytes of a frame (20_memory.md R58, 30_encoding.md R76) -/

@[simp] theorem frameBytes_length (ch : Nat) (c : Channel) :
    (frameBytes ch c).length = c.fr.len.toNat := by
  simp [frameBytes]

/-- A frame's bytes are the buffer's below `len`. -/
theorem frameBytes_getElem? (ch : Nat) {c : Channel} {k : Nat} (hk : k < c.fr.len.toNat) :
    (frameBytes ch c)[k]? = some (memRead ch c k) := by
  simp [frameBytes, hk]

/-- What the buffer holds below `len` is a slice of the frame. -/
theorem Memory.Holds.frameBytes_slice (ch : Nat) {c : Channel} {off : Nat} {bs : List Byte}
    (h : Memory.Holds c.buf off bs) (hlen : off + bs.length ≤ c.fr.len.toNat) :
    ((frameBytes ch c).drop off).take bs.length = bs := by
  refine List.ext_getElem? fun k => ?_
  rw [List.getElem?_take, List.getElem?_drop]
  split
  case isTrue hk =>
    rw [frameBytes_getElem? ch (by omega), memRead, h k hk, List.getElem?_eq_getElem hk]
    rfl
  case isFalse hk => rw [List.getElem?_eq_none (Nat.le_of_not_lt hk)]

/-- A frame of 16 bytes or more, cut at START's end and eight and three bytes before its own. -/
theorem frame_eq_slices {frame : List Byte} (h : 16 ≤ frame.length) :
    frame = frame.take 8 ++ payloadSlice frame ++ (frame.drop (frame.length - 8)).take 5 ++
      frame.drop (frame.length - 3) := by
  have hend : (frame.drop (frame.length - 8)).drop 5 = frame.drop (frame.length - 3) := by
    rw [List.drop_drop]
    congr 1
    omega
  have hbody : (frame.drop 8).drop (frame.length - 16) = frame.drop (frame.length - 8) := by
    rw [List.drop_drop]
    congr 1
    omega
  rw [← hend, List.append_assoc, List.take_append_drop, ← hbody, List.append_assoc, payloadSlice,
    List.take_append_drop, List.take_append_drop]

/-- Settles O31: R34 in Complete puts START and END where the cuts of the frame are. -/
theorem heldFrameLayout : Obligations.HeldFrameLayout := by
  rintro ch c ⟨-, hreader, -⟩ hs
  obtain ⟨h16, -, -, hstart, hend, -⟩ := (readerInv_complete hs).1 hreader
  have hslices := frame_eq_slices (frame := frameBytes ch c) (by simpa using h16)
  have htake : (frameBytes ch c).take 8 = startMarker :=
    hstart.frameBytes_slice ch (Nat.le_trans (by decide) h16)
  have hendSlice : ((frameBytes ch c).drop (c.fr.len.toNat - 8)).take 5 = endMarker :=
    hend.frameBytes_slice ch (by rw [endMarker_length]; omega)
  obtain ⟨f, c1, c2, htail⟩ := List.length_eq_three.1
    (show ((frameBytes ch c).drop (c.fr.len.toNat - 3)).length = 3 by simp; omega)
  rw [frameBytes_length, htake, hendSlice, htail] at hslices
  refine ⟨payloadSlice (frameBytes ch c), f, c1, c2, ?_, rfl, hslices, fun n a ha => ?_⟩
  · simp [payloadSlice]
    omega
  · obtain ⟨-, -, hdata⟩ := framePort_of_frameValid ch n a ((frameValid_iff c false).2 ⟨rfl, hs⟩)
    rw [hdata, if_pos ha, frameBytes_getElem? ch ha]

end Sys2Proof.Machine

namespace Sys2Proof

/-! The encoding (30_encoding.md R80 to R84): the round trip of operations and selector words, and the one row of
the opcode map that a word matches. -/

/-! ### A word as its fields (R80, R81, R82) -/

theorem rselWord_fields (w : BitVec 9) :
    rselWord (w.getLsbD 8) (w.extractLsb' 5 3) (w.getLsbD 4) (w.getLsbD 3) (w.getLsbD 2)
      (w.getLsbD 1) (w.getLsbD 0) = w := by
  revert w; decide

theorem gselWord_fields (w : BitVec 4) :
    gselWord (w.getLsbD 3) (w.getLsbD 2) (w.getLsbD 1) (w.getLsbD 0) = w := by
  revert w; decide

theorem tselWord_fields (w : BitVec 3) :
    tselWord (w.getLsbD 2) (w.getLsbD 1) (w.getLsbD 0) = w := by
  revert w; decide

/-! ### The round trip -/

@[simp] theorem decode_rselWord (ch : Nat) (r : Bool) (st : BitVec 3) (v k e p q : Bool) :
    decode ch (.rsel (rselWord r st v k e p q)) = readerRow ch r st v k e p q :=
  decodeRsel_rselWord ch r st v k e p q

@[simp] theorem decode_gselWord (ch : Nat) (r g d h : Bool) :
    decode ch (.gsel (gselWord r g d h)) = retargetRow ch r g d h :=
  decodeGsel_gselWord ch r g d h

@[simp] theorem decode_tselWord (ch : Nat) (n h x : Bool) :
    decode ch (.tsel (tselWord n h x)) = tickRow ch n h x :=
  decodeTsel_tselWord ch n h x

/-- An operation's fixed bits select its row, and its free bits come back as its fields. -/
theorem decode_encode (i : Instr) : decode i.channel (encode i) = i := by
  cases i
  case rdRsv67 ch s0 v k e p q => cases s0 <;> simp [encode, Instr.channel, readerRow]
  case pgReset | rtgNone | rtgI | rtgA | rtgDgi | rtgDga =>
    simp [encode, Instr.channel, retargetRow]
  case tkDis | tkWait | tkRise | tkFall => simp [encode, Instr.channel, tickRow]
  all_goals simp [encode, Instr.channel, readerRow]

/-- The reader's rows, state by state in the priority order of `readerRow`: the bits a row tests are its
encoding's fixed bits. -/
theorem encode_readerRow (ch : Nat) (r : Bool) (st : BitVec 3) (v k e p q : Bool) :
    encode (readerRow ch r st v k e p q) = .rsel (rselWord r st v k e p q) := by
  have hcode : st = 0 ∨ st = 1 ∨ st = 2 ∨ st = 3 ∨ st = 4 ∨ st = 5 ∨ st = 6 ∨ st = 7 := by
    revert st; decide
  cases r
  case true => rfl
  case false =>
    obtain rfl | rfl | rfl | rfl | rfl | rfl | rfl | rfl := hcode
    · rfl
    · match e, v, p, q with
      | true, _, _, _ => rfl
      | false, false, _, _ => rfl
      | false, true, false, _ => rfl
      | false, true, true, true => rfl
      | false, true, true, false => rfl
    · match e, v, p, q with
      | true, _, _, _ => rfl
      | false, false, _, _ => rfl
      | false, true, true, _ => rfl
      | false, true, false, true => rfl
      | false, true, false, false => rfl
    · match e, v, q with
      | true, _, _ => rfl
      | false, false, _ => rfl
      | false, true, true => rfl
      | false, true, false => rfl
    · cases k <;> rfl
    all_goals rfl

theorem encode_retargetRow (ch : Nat) (r g d h : Bool) :
    encode (retargetRow ch r g d h) = .gsel (gselWord r g d h) :=
  match r, g, d, h with
  | true, _, _, _ => rfl
  | false, false, _, _ => rfl
  | false, true, true, true => rfl
  | false, true, true, false => rfl
  | false, true, false, true => rfl
  | false, true, false, false => rfl

theorem encode_tickRow (ch : Nat) (n h x : Bool) :
    encode (tickRow ch n h x) = .tsel (tselWord n h x) :=
  match n, x, h with
  | false, _, _ => rfl
  | true, false, _ => rfl
  | true, true, true => rfl
  | true, true, false => rfl

theorem encode_decode (ch : Nat) (sel : Selector) : encode (decode ch sel) = sel := by
  cases sel with
  | rsel w => exact (encode_readerRow ..).trans (congrArg Selector.rsel (rselWord_fields w))
  | gsel w => exact (encode_retargetRow ..).trans (congrArg Selector.gsel (gselWord_fields w))
  | tsel w => exact (encode_tickRow ..).trans (congrArg Selector.tsel (tselWord_fields w))

/-- Settles O1: both directions of the round trip. -/
theorem encodeThenDecodeIsIdentity : Obligations.EncodeThenDecodeIsIdentity :=
  ⟨decode_encode, encode_decode⟩

/-! ### The row of a word (R83) -/

theorem decode_channel (ch : Nat) (sel : Selector) : (decode ch sel).channel = ch := by
  cases sel with
  | rsel w => exact readerRow_channel ..
  | gsel w => exact retargetRow_channel ..
  | tsel w => exact tickRow_channel ..

/-- The encoding of an operation is a word of its own row. -/
theorem Instr.rowMatch (i : Instr) : Laws.RowMatch.Statement i := by
  cases i with
  | rdReset => exact Laws.RowMatch.rdReset ..
  | rdIdle => exact Laws.RowMatch.rdIdle ..
  | rdRsv5 => exact Laws.RowMatch.rdRsv5 ..
  | rdRsv67 => exact Laws.RowMatch.rdRsv67 ..
  | asWait => exact Laws.RowMatch.asWait ..
  | asAdv => exact Laws.RowMatch.asAdv ..
  | asStart => exact Laws.RowMatch.asStart ..
  | asMiss => exact Laws.RowMatch.asMiss ..
  | asTmo => exact Laws.RowMatch.asTmo ..
  | rbWait => exact Laws.RowMatch.rbWait ..
  | rbOvf => exact Laws.RowMatch.rbOvf ..
  | rbApp => exact Laws.RowMatch.rbApp ..
  | rbEnd => exact Laws.RowMatch.rbEnd ..
  | rbTmo => exact Laws.RowMatch.rbTmo ..
  | rtWait => exact Laws.RowMatch.rtWait ..
  | rtApp => exact Laws.RowMatch.rtApp ..
  | rtLast => exact Laws.RowMatch.rtLast ..
  | rtTmo => exact Laws.RowMatch.rtTmo ..
  | cpHold => exact Laws.RowMatch.cpHold ..
  | cpDlv => exact Laws.RowMatch.cpDlv ..
  | pgReset => exact Laws.RowMatch.pgReset ..
  | rtgNone => exact Laws.RowMatch.rtgNone ..
  | rtgI => exact Laws.RowMatch.rtgI ..
  | rtgA => exact Laws.RowMatch.rtgA ..
  | rtgDgi => exact Laws.RowMatch.rtgDgi ..
  | rtgDga => exact Laws.RowMatch.rtgDga ..
  | tkDis => exact Laws.RowMatch.tkDis ..
  | tkWait => exact Laws.RowMatch.tkWait ..
  | tkRise => exact Laws.RowMatch.tkRise ..
  | tkFall => exact Laws.RowMatch.tkFall ..

/-- Two rows that match one word agree on the bits that both fix. -/
theorem OpcodeRow.mtch_and_mask {a b : OpcodeRow} {w : Nat} (ha : a.covers w = true)
    (hb : b.covers w = true) : a.mtch &&& b.mask = b.mtch &&& a.mask := by
  rw [← beq_iff_eq.1 ha, ← beq_iff_eq.1 hb, Nat.and_assoc, Nat.and_assoc, Nat.and_comm a.mask]

/-- Different rows of a format disagree on a bit that both fix, so no word matches both. -/
theorem Format.rows_disjoint (f : Format) :
    ∀ a ∈ f.rows, ∀ b ∈ f.rows, a.mtch &&& b.mask = b.mtch &&& a.mask → a = b := by
  cases f <;> decide

theorem Format.rows_nodup (f : Format) : f.rows.Nodup := by
  cases f <;> decide

/-- A row of the map that covers a word is the only row of its format that does. -/
theorem OpcodeRow.filter_covers {f : Format} {r : OpcodeRow} {w : Nat} (hr : r ∈ f.rows)
    (hw : r.covers w = true) : (f.rows.filter fun x => x.covers w) = [r] := by
  have honly : ∀ x ∈ f.rows, x.covers w = (x == r) := fun x hx => by
    rw [Bool.eq_iff_iff, beq_iff_eq]
    exact ⟨fun h => f.rows_disjoint x hx r hr (mtch_and_mask h hw), fun h => h ▸ hw⟩
  rw [List.filter_congr honly, List.filter_beq, List.count_eq_one_of_mem f.rows_nodup hr,
    List.replicate_one]

/-- Settles O2: a word is the encoding of the operation it decodes to, which lies in its row, and the rows of a
format are disjoint. -/
theorem everySelectorMatchesExactlyOneRow : Obligations.EverySelectorMatchesExactlyOneRow := by
  intro ch sel
  obtain ⟨hformat, hcovers, hmem⟩ := (decode ch sel).rowMatch
  rw [encode_decode] at hformat hcovers
  rw [← hformat] at hmem
  exact ⟨OpcodeRow.filter_covers hmem hcovers, decode_channel ch sel⟩

/-- Settles O3: twelve closed words, evaluated. -/
theorem sampleWordsDecodeAsListed : Obligations.SampleWordsDecodeAsListed := by
  unfold Obligations.SampleWordsDecodeAsListed
  decide

end Sys2Proof

namespace Sys2Proof.Machine

/-! The expansion of a SEND, and of the FRAME that is one (30_encoding.md R86, R87). -/

/-! ### The lines of a SEND -/

/-- The line that presents a byte on channel 0 at a time. -/
def byteLine (t : Nat) (b : Byte) : ScriptLine := { time := t, extra := 0, ch := 0, items := [.byte b] }

/-- The cycle at a time in which nothing is asserted but a byte on channel 0. -/
def byteCycle (t : Nat) (b : Byte) : CycleIn :=
  { rst := false
    nowMs := BitVec.ofNat 32 t
    chans := [{ ChanIn.idle with rxValid := true, rxData := b }] }

@[simp] theorem sendLines_nil (t : Nat) : sendLines t [] = [] := rfl

@[simp] theorem sendLines_cons (t : Nat) (b : Byte) (bs : List Byte) :
    sendLines t (b :: bs) = byteLine t b :: sendLines (t + 1) bs := rfl

theorem sendLines_fit (t : Nat) (bs : List Byte) :
    ((sendLines t bs).all fun l => l.items.all ScriptItem.fits) = true := by
  induction bs generalizing t with
  | nil => rfl
  | cons b bs ih => simp [byteLine, ScriptItem.fits, ih]

theorem sendLines_times (t : Nat) (bs : List Byte) :
    (sendLines t bs).map (fun l => l.time) = List.range' t bs.length := by
  induction bs generalizing t with
  | nil => rfl
  | cons b bs ih => simp [byteLine, List.range'_succ, ih]

theorem sendLines_before {t u : Nat} (bs : List Byte) (h : u < t) :
    ((sendLines t bs).filter fun l => l.time == u) = [] := by
  have hout : u ∉ (sendLines t bs).map fun l => l.time := by
    rw [sendLines_times, List.mem_range'_1]
    omega
  simpa [List.filter_eq_nil_iff] using hout

/-- One line at each millisecond of a SEND. -/
theorem sendLines_at (t : Nat) (bs : List Byte) {d : Nat} (hd : d < bs.length) :
    ((sendLines t bs).filter fun l => l.time == t + d) = [byteLine (t + d) bs[d]] := by
  induction bs generalizing t d with
  | nil => cases hd
  | cons b bs ih =>
    rw [sendLines_cons, List.filter_cons]
    cases d with
    | zero => simp [byteLine, sendLines_before bs (Nat.lt_succ_self t)]
    | succ d =>
      have hrest := ih (t + 1) (Nat.lt_of_succ_lt_succ hd)
      rw [Nat.add_right_comm, Nat.add_assoc] at hrest
      simpa [byteLine] using hrest

/-! ### The cycles of a SEND -/

/-- A time with one line, a byte's, is one cycle. -/
theorem cyclesAt_byteLine {lines : List ScriptLine} {t : Nat} {b : Byte}
    (h : (lines.filter fun l => l.time == t) = [byteLine t b]) :
    cyclesAt lines t = [byteCycle t b] := by
  have hplain : (lines.filter fun l => l.time == t && l.extra == 0) = [byteLine t b] :=
    calc (lines.filter fun l => l.time == t && l.extra == 0)
      _ = (lines.filter fun l => l.time == t).filter fun l => l.extra == 0 := by
        simp only [List.filter_filter, Bool.and_comm]
      _ = [byteLine t b] := by rw [h]; rfl
  have hcycle : cycleInOf lines t 0 = byteCycle t b := by
    rw [cycleInOf, hplain]
    rfl
  rw [cyclesAt, h, ← hcycle]
  rfl

theorem foldl_min_range' {t s : Nat} (n : Nat) (h : t ≤ s) : (List.range' s n).foldl min t = t := by
  induction n generalizing s with
  | zero => rfl
  | succ n ih => rw [List.range'_succ, List.foldl_cons, Nat.min_eq_left h, ih (by omega)]

theorem foldl_max_range' (t n : Nat) : (List.range' (t + 1) n).foldl max t = t + n := by
  induction n generalizing t with
  | zero => rfl
  | succ n ih =>
    rw [List.range'_succ, List.foldl_cons, Nat.max_eq_right (Nat.le_succ t), ih]
    omega

/-- The times of a SEND run from its first byte to its last. -/
theorem cyclesOf_sendLines_eq (t : Nat) (bs : List Byte) :
    cyclesOf (sendLines t bs) =
      (List.range bs.length).flatMap fun d => cyclesAt (sendLines t bs) (t + d) := by
  cases bs with
  | nil => rfl
  | cons b bs =>
    have htime : (byteLine t b).time = t := rfl
    have hspan : t + bs.length + 1 - t = bs.length + 1 := by omega
    simp only [cyclesOf, sendLines_cons, sendLines_times, htime, foldl_min_range' _ (Nat.le_succ t),
      foldl_max_range', hspan, List.length_cons]

theorem cyclesOf_sendLines (t : Nat) (bs : List Byte) :
    cyclesOf (sendLines t bs) = bs.zipIdx.map fun x => byteCycle (t + x.2) x.1 := by
  have hone : ∀ d ∈ List.range bs.length,
      cyclesAt (sendLines t bs) (t + d) = [byteCycle (t + d) (bs.getD d 0)] := fun d hd => by
    have hlt := List.mem_range.1 hd
    rw [cyclesAt_byteLine (sendLines_at t bs hlt), List.getD_eq_getElem _ _ hlt]
  rw [cyclesOf_sendLines_eq, List.flatMap_congr hone, ← List.map_eq_flatMap]
  refine List.ext_getElem (by simp) fun d hd _ => ?_
  have hlt : d < bs.length := by simpa using hd
  simp [hlt]

theorem scriptCycles_sendLines {stmt : ScriptStmt} {t : Nat} {bs : List Byte}
    (h : stmt.lines = sendLines t bs) :
    scriptCycles [stmt] = some (bs.zipIdx.map fun x => byteCycle (t + x.2) x.1) := by
  simp only [scriptCycles, List.flatMap_singleton, h, sendLines_fit, if_true, cyclesOf_sendLines]

/-- Settles O60: FRAME is the SEND of the frame's bytes. -/
theorem frameScriptSendsItsBytes : Obligations.FrameScriptSendsItsBytes :=
  fun _ _ _ _ _ => scriptCycles_sendLines rfl

end Sys2Proof.Machine

namespace Sys2Proof.Machine

/-! The frame reader's operations, one by one (40_frame_reader.md R102 to R120): what each makes of the block, and
the inputs and registers that select it. -/

/-! ### What an operation makes of the block, from its effect -/

/-- An operation that raises an event sets its channel and appends the record. -/
theorem exec_of_raising_effect {i : Instr} {s : State} {c c' : Channel} {x : EventInfo}
    (hc : s.chans[i.channel]? = some c)
    (h : effect i (s.sampled i.channel) c = .next (c', some x)) :
    exec i s = .next (s.raise i.channel c' x) := by
  rw [exec_eq_effect i hc, h]
  rfl

/-- An operation faults as its effect does. -/
theorem exec_of_faulting_effect {i : Instr} {s : State} {c : Channel} {f : Fault}
    (hc : s.chans[i.channel]? = some c)
    (h : effect i (s.sampled i.channel) c = .fault f) : exec i s = .fault f := by
  rw [exec_eq_effect i hc, h]
  rfl

/-! ### What a byte or its absence selects, with no timeout -/

/-- The timeout in ms (00_scope.md R7). -/
theorem timeoutMs_eq (cfg : ChannelConfig) : cfg.timeoutMs = cfg.timeoutS * 1000 := rfl

section

variable {s : State} {ch : Nat} {c : Channel} (hc : s.chans[ch]? = some c)
  (hr : s.inp.rst = false)

include hc hr

theorem selected_awaiting_byte (hs : c.fr.st = .awaitingStart)
    (hv : (s.chanIn ch).rxValid = true) (ht : elapsed s.now c.fr.tRef ≤ c.cfg.timeoutMs) :
    s.selected .reader ch = some (
      if (s.chanIn ch).rxData ≠ startByte c.fr.mp then
        .asMiss ch (s.chanIn ch).frameAck (decide (c.fr.mp = 7))
      else if c.fr.mp = 7 then .asStart ch (s.chanIn ch).frameAck
      else .asAdv ch (s.chanIn ch).frameAck) := by
  rw [selected_awaiting hc hr hs, if_neg (Nat.not_lt.2 ht), if_neg (by simp [hv])]

theorem selected_body_byte (hs : c.fr.st = .readingBody)
    (hv : (s.chanIn ch).rxValid = true) (ht : elapsed s.now c.fr.tRef ≤ c.cfg.timeoutMs) :
    s.selected .reader ch = some (
      if c.fr.len.toNat + 1 + trailerLen > c.cfg.bufCap then
        .rbOvf ch (s.chanIn ch).frameAck (c.endTest ch (s.chanIn ch).rxData)
      else if c.endTest ch (s.chanIn ch).rxData = true then .rbEnd ch (s.chanIn ch).frameAck
      else .rbApp ch (s.chanIn ch).frameAck) := by
  rw [selected_body hc hr hs, if_neg (Nat.not_lt.2 ht), if_neg (by simp [hv])]

theorem selected_trailer_byte (hs : c.fr.st = .readingTrailer)
    (hv : (s.chanIn ch).rxValid = true) (ht : elapsed s.now c.fr.tRef ≤ c.cfg.timeoutMs) :
    s.selected .reader ch = some (
      if c.fr.trl = 2 then .rtLast ch (s.chanIn ch).frameAck false
      else .rtApp ch (s.chanIn ch).frameAck false) := by
  rw [selected_trailer hc hr hs, if_neg (Nat.not_lt.2 ht), if_neg (by simp [hv])]

end

/-- In the states its timeout is evaluated in, the reader takes bytes. -/
theorem rxReady_of_timed {c : Channel} (h : c.fr.st.timed = true) : c.rxReady false = true := by
  rw [rxReady_eq, h]
  rfl

/-- Elsewhere it takes none. -/
theorem not_rxReady_of_not_timed {c : Channel} (h : c.fr.st.timed = false) (rst : Bool) :
    c.rxReady rst = false := by
  rw [rxReady_eq, h, Bool.and_false]

theorem not_consumes_of_not_timed {c : Channel} (h : c.fr.st.timed = false) (rst : Bool)
    (i : ChanIn) : c.consumes rst i = false := by
  rw [Channel.consumes, not_rxReady_of_not_timed h, Bool.and_false]

/-! ### The codes no rule enters (R102 to R104) -/

/-- Settles O17: the three effects are the fault, and each code has one row. -/
theorem unenteredCodesFault : Obligations.UnenteredCodesFault := by
  intro s ch c hc
  refine ⟨fun v k e p q => exec_of_faulting_effect (i := .rdIdle ch v k e p q) hc rfl,
    fun v k e p q => exec_of_faulting_effect (i := .rdRsv5 ch v k e p q) hc rfl,
    fun s0 v k e p q => exec_of_faulting_effect (i := .rdRsv67 ch s0 v k e p q) hc rfl,
    fun hr => ⟨fun hs => ?_, fun hs => ?_, fun hs => ?_, fun hs => ?_⟩⟩
  · rw [selected_reader hc, hr, readerOp, hs]
    exact ⟨_, _, _, _, _, rfl⟩
  · rw [selected_reader hc, hr, readerOp, hs]
    exact ⟨_, _, _, _, _, rfl⟩
  · rw [selected_reader hc, hr, readerOp]
    rcases hs with hs | hs <;> rw [hs] <;> exact ⟨_, _, _, _, _, _, rfl⟩
  · have ht : c.fr.st.timed = false := by rcases hs with hs | hs | hs | hs <;> rw [hs] <;> rfl
    exact ⟨not_rxReady_of_not_timed ht false, not_consumes_of_not_timed ht false _⟩

/-! ### The waits (R105, R110, R115) -/

/-- Settles O19: the three hold the channel, and with no byte and no timeout each is its state's row. -/
theorem readerWaitsChangeNothing : Obligations.ReaderWaitsChangeNothing := by
  intro s ch c hc
  refine ⟨fun _ _ _ => holdChannel_some hc, fun _ _ _ => holdChannel_some hc,
    fun _ _ _ => holdChannel_some hc, fun hr hv ht => ?_⟩
  have ht' := Nat.not_lt.2 ht
  refine ⟨fun hs => ⟨rxReady_of_timed (by rw [hs]; rfl), ?_⟩,
    fun hs => ⟨rxReady_of_timed (by rw [hs]; rfl), ?_⟩,
    fun hs => ⟨rxReady_of_timed (by rw [hs]; rfl), ?_⟩⟩
  · rw [selected_awaiting hc hr hs, if_neg ht', if_pos hv]
    exact ⟨_, _, _, rfl⟩
  · rw [selected_body hc hr hs, if_neg ht', if_pos hv]
    exact ⟨_, _, _, rfl⟩
  · rw [selected_trailer hc hr hs, if_neg ht', if_pos hv]
    exact ⟨_, _, _, rfl⟩

/-! ### AwaitingStart (R106 to R108) -/

/-- Settles O22: the effect of AS.ADV, and its row by the byte and `mp`. -/
theorem asAdvExtendsTheMatch : Obligations.AsAdvExtendsTheMatch := by
  intro s ch c hc
  refine ⟨fun k => exec_of_silent_effect (i := .asAdv ch k) hc rfl, fun hr hs hv ht =>
    ⟨rxReady_of_timed (by rw [hs]; rfl), ?_⟩⟩
  rw [selected_awaiting_byte hc hr hs hv ht, ← startByte]
  split_ifs with hb h7
  · simp [hb]
  · simp [h7]
  · exact iff_of_true ⟨not_not.1 hb, h7⟩ ⟨_, rfl⟩

/-- `START` ends in `mp = 7`, where its byte is 01. -/
theorem startByte_seven : startByte 7 = 0x01 := rfl

/-- Settles O23: the write of AS.START offset by offset; a byte 01 at `mp = 7` is the marker's byte there. -/
theorem asStartBeginsTheFrame : Obligations.AsStartBeginsTheFrame := by
  intro s ch c hc
  refine ⟨⟨(c.startFrame s.now).buf,
    fun k => exec_of_silent_effect (i := .asStart ch k) hc rfl, startFrame_read? c s.now⟩,
    fun hr hs hv ht => ⟨rxReady_of_timed (by rw [hs]; rfl), ?_⟩⟩
  rw [selected_awaiting_byte hc hr hs hv ht, ← startByte_seven]
  split_ifs with hb h7
  · simp only [Option.some.injEq, reduceCtorEq, exists_false, iff_false]
    rintro ⟨hb7, h7⟩
    exact hb (by rw [h7, hb7])
  · simpa [h7] using hb
  · simpa using fun _ => h7

/-- Settles O24: the effect of AS.MISS, the row of every byte but the marker's at `mp`. -/
theorem asMissRestartsTheMatch : Obligations.AsMissRestartsTheMatch := by
  intro s ch c hc
  refine ⟨fun k q => exec_of_silent_effect (i := .asMiss ch k q) hc rfl, fun hr hs hv ht =>
    ⟨rxReady_of_timed (by rw [hs]; rfl), ?_⟩⟩
  rw [selected_awaiting_byte hc hr hs hv ht, ← startByte]
  split_ifs with hb h7
  · simpa using hb
  · simpa using hb
  · simpa using hb

/-! ### The timeout (R109, R114, R118) -/

/-- Settles O25: the three share one effect, and in each timed state theirs is the row of an expired
timeout. -/
theorem timeoutRecovers : Obligations.TimeoutRecovers := by
  intro s ch c hc
  refine ⟨?_, rxReady_of_timed, fun hr => ⟨fun hs => ?_, fun hs => ?_, fun hs => ?_⟩⟩
  · rintro i code (⟨⟨v, k, p, q, rfl⟩, rfl⟩ | ⟨⟨v, k, p, q, rfl⟩, rfl⟩ | ⟨⟨v, k, p, q, rfl⟩, rfl⟩)
    · exact exec_of_raising_effect (i := .asTmo ch v k p q) hc rfl
    · exact exec_of_raising_effect (i := .rbTmo ch v k p q) hc rfl
    · exact exec_of_raising_effect (i := .rtTmo ch v k p q) hc rfl
  · rw [selected_awaiting hc hr hs, ← timeoutMs_eq]
    split_ifs <;> simp [*]
  · rw [selected_body hc hr hs, ← timeoutMs_eq]
    split_ifs <;> simp [*]
  · rw [selected_trailer hc hr hs, ← timeoutMs_eq]
    split_ifs <;> simp [*]

/-! ### ReadingBody (R111 to R113) -/

/-- Settles O26: the effect of RB.OVF, and its row by the reserve before the end test. -/
theorem overflowRecovers : Obligations.OverflowRecovers := by
  intro s ch c hc
  refine ⟨fun k q => exec_of_raising_effect (i := .rbOvf ch k q) hc rfl, fun hr hs hv ht =>
    ⟨rxReady_of_timed (by rw [hs]; rfl), ?_⟩⟩
  rw [selected_body_byte hc hr hs hv ht, ← show trailerLen = 3 from rfl]
  split_ifs <;> simp [*]

/-- A byte back from `len`, within the buffer. -/
theorem byteBack_eq_memRead (ch : Nat) {c : Channel} {k : Nat} (hk : k ≤ c.fr.len.toNat) :
    c.byteBack ch k = memRead ch c (c.fr.len.toNat - k) := if_pos hk

/-- The end test, byte by byte (30_encoding.md R77). -/
theorem endTest_iff_memRead {ch : Nat} {c : Channel} (b : Byte) (h4 : 4 ≤ c.fr.len.toNat) :
    c.endTest ch b = true ↔
      (∀ n, n < 4 → memRead ch c (c.fr.len.toNat - 4 + n) = 0x1B) ∧ b = 0x1A := by
  have hback : ∀ n, n < 4 →
      memRead ch c (c.fr.len.toNat - 4 + n) = c.byteBack ch (4 - n) := fun n hn => by
    rw [byteBack_eq_memRead ch (by omega)]
    congr 1
    omega
  have hfour : (∀ n, n < 4 → c.byteBack ch (4 - n) = 0x1B) ↔
      c.byteBack ch 4 = 0x1B ∧ c.byteBack ch 3 = 0x1B ∧ c.byteBack ch 2 = 0x1B ∧
        c.byteBack ch 1 = 0x1B := by
    refine ⟨fun h => ⟨h 0 (by decide), h 1 (by decide), h 2 (by decide), h 3 (by decide)⟩, ?_⟩
    rintro ⟨h0, h1, h2, h3⟩ n hn
    interval_cases n <;> assumption
  rw [forall₂_congr fun n hn => by rw [hback n hn], hfour]
  simp [Channel.endTest, endMarker, and_assoc]

/-- Settles O27: both are the one append, and the end test on the buffer's bytes tells them apart. -/
theorem bodyByteIsAppended : Obligations.BodyByteIsAppended := by
  intro s ch c hc
  refine ⟨⟨(c.append (s.chanIn ch).rxData).buf,
    fun k => exec_of_silent_effect (i := .rbApp ch k) hc rfl,
    fun k => exec_of_silent_effect (i := .rbEnd ch k) hc rfl, append_read? c _⟩,
    fun hr hs hv ht hroom h4 => ⟨rxReady_of_timed (by rw [hs]; rfl), ?_⟩⟩
  have hreserve : ¬c.fr.len.toNat + 1 + trailerLen > c.cfg.bufCap := Nat.not_lt.2 hroom
  rw [selected_body_byte hc hr hs hv ht, if_neg hreserve, ← endTest_iff_memRead _ h4]
  split_ifs <;> simp [*]

/-! ### ReadingTrailer (R116, R117) -/

/-- Settles O28: both are the one append, and `trl` tells them apart. -/
theorem trailerByteIsAppended : Obligations.TrailerByteIsAppended := by
  intro s ch c hc
  refine ⟨⟨(c.append (s.chanIn ch).rxData).buf,
    fun k p => exec_of_silent_effect (i := .rtApp ch k p) hc rfl,
    fun k p => exec_of_silent_effect (i := .rtLast ch k p) hc rfl, append_read? c _⟩,
    fun hr hs hv ht => ⟨rxReady_of_timed (by rw [hs]; rfl), ?_⟩,
    fun d hd => ⟨not_rxReady_of_not_timed (by rw [hd]; rfl) false,
      (frameValid_iff d false).2 ⟨rfl, hd⟩⟩⟩
  rw [selected_trailer_byte hc hr hs hv ht]
  split_ifs with h2
  · simp [h2]
  · simpa using h2

/-! ### Complete (R120) -/

/-- Settles O30: the effect of CP.DLV, and its row by the acknowledge. -/
theorem acknowledgeDeliversTheFrame : Obligations.AcknowledgeDeliversTheFrame := by
  intro s ch c hc
  refine ⟨fun v e p q => exec_of_raising_effect (i := .cpDlv ch v e p q) hc rfl,
    fun hr hs hk => ?_, rfl, rfl⟩
  have ht : c.fr.st.timed = false := by rw [hs]; rfl
  refine ⟨not_rxReady_of_not_timed ht false, not_consumes_of_not_timed ht false _, ?_⟩
  rw [selected_complete hc hr hs, if_pos hk]
  exact ⟨_, _, _, _, rfl⟩

end Sys2Proof.Machine

namespace Sys2Proof.Machine

/-! What the frame reader shares with the rest of the block: no register with the pulse generator (40_frame_reader.md
R100), the transition table (R135), and what the rest of a channel's cycle leaves of the reader's stage. -/

/-! ### The two units of a channel (R100, 42_channel.md R181) -/

/-- What a channel's new value shares with its old one, the block's channels share. -/
theorem map_set_of_eq {α : Type} {s : State} {ch : Nat} {c c' : Channel} (f : Channel → α)
    (hc : s.chans[ch]? = some c) (h : f c' = f c) :
    (s.chans.set ch c').map f = s.chans.map f := by
  have hself : s.chans.set ch c = s.chans := congrArg State.chans (setChannel_self hc)
  rw [List.map_set, h, ← List.map_set, hself]

/-- Settles O8: an operation's effect leaves the other unit's registers, and a strobe is in neither unit. -/
theorem readerAndPulseGeneratorShareNoRegister :
    Obligations.ReaderAndPulseGeneratorShareNoRegister := by
  intro i s t h
  obtain ⟨c, r, hc, hr, rfl⟩ := exec_next h
  rw [State.commit_chans]
  refine ⟨fun hi => map_set_of_eq _ hc ?_, fun hi => map_set_of_eq _ hc ?_⟩
  · rw [committed_pg, effect_pg hi hr]
  · obtain ⟨hfr, hbuf⟩ := effect_fr_buf hi hr
    rw [committed_fr, committed_buf, hfr, hbuf]

/-! ### The transition table (R123, R135) -/

theorem effect_fr_st {i : Instr} {e : Sampled} {c : Channel} {r : Channel × Option EventInfo}
    (h : effect i e c = .next r) : r.1.fr.st = i.goesTo c.fr.st := by
  cases i <;> cases h <;> rfl

theorem effect_fr_tRef {i : Instr} {e : Sampled} {c : Channel} {r : Channel × Option EventInfo}
    (h : effect i e c = .next r) :
    r.1.fr.tRef = if i.writesTRef = true then e.now else c.fr.tRef := by
  cases i <;> cases h <;> rfl

/-- The reader's choice is one of its state's operations (30_encoding.md R84). -/
theorem readerOp_startsIn (ch : Nat) (rst : Bool) (e : Sampled) (c : Channel) :
    (readerOp ch rst e c).startsIn c.fr.st := by
  cases rst
  case true => trivial
  case false =>
    cases hs : c.fr.st
    case awaitingStart =>
      rw [readerOp_awaiting ch e hs]
      repeat' split
      all_goals rfl
    case readingBody =>
      rw [readerOp_body ch e hs]
      repeat' split
      all_goals rfl
    case readingTrailer =>
      rw [readerOp_trailer ch e hs]
      repeat' split
      all_goals rfl
    case complete =>
      rw [readerOp_complete ch e hs]
      repeat' split
      all_goals rfl
    case idle | reserved5 =>
      rw [readerOp, hs]
      rfl
    case reserved6 =>
      rw [readerOp, hs]
      exact .inl rfl
    case reserved7 =>
      rw [readerOp, hs]
      exact .inr rfl

/-- RD.RESET is the row of `rst = 1` alone. -/
theorem readerRow_rdReset_iff (ch : Nat) (r : Bool) (st : BitVec 3) (v k e p q : Bool) :
    r = true ↔ ∃ st' v' k' e' p' q',
      readerRow ch r st v k e p q = .rdReset ch st' v' k' e' p' q' := by
  refine ⟨?_, fun ⟨st', v', k', e', p', q', h⟩ => ?_⟩
  · rintro rfl
    exact ⟨_, _, _, _, _, _, rfl⟩
  · unfold readerRow at h
    repeat' split at h
    case isTrue hr => exact hr
    all_goals cases h

/-- Settles O42: each effect writes what the table says, and each row is one of its state's. -/
theorem transitionTable : Obligations.TransitionTable := by
  refine ⟨fun i s t c c' h hc hc' => ?_, fun s ch c i hc hi => ?_⟩
  · obtain ⟨r, hr, -, hcr⟩ := exec_next_at rfl hc h
    obtain rfl : c' = committed r := Option.some.inj (hc'.symm.trans hcr)
    rw [committed_fr]
    exact ⟨effect_fr_st hr, effect_fr_tRef hr⟩
  · rw [selected_reader hc] at hi
    obtain rfl := Option.some.inj hi
    exact ⟨readerOp_startsIn .., readerRow_channel .., readerRow_rdReset_iff ..⟩

/-! ### The reader's part of a cycle (42_channel.md R180) -/

/-- Two channels agree on what the reader's stage sets: its registers, the buffer and its three strobes. -/
structure SameReader (c d : Channel) : Prop where
  fr : c.fr = d.fr
  buf : c.buf = d.buf
  frame : c.strobes.frame = d.strobes.frame
  timeout : c.strobes.timeout = d.strobes.timeout
  overflow : c.strobes.overflow = d.strobes.overflow

theorem SameReader.trans {a b c : Channel} (h : SameReader a b) (h' : SameReader b c) :
    SameReader a c :=
  ⟨h.fr.trans h'.fr, h.buf.trans h'.buf, h.frame.trans h'.frame, h.timeout.trans h'.timeout,
    h.overflow.trans h'.overflow⟩

/-- A pulse-generator operation, with the strobe of its event, leaves the reader's part. -/
theorem committed_sameReader {i : Instr} {e : Sampled} {c : Channel}
    {r : Channel × Option EventInfo} (hi : i.isReader = false) (h : effect i e c = .next r) :
    SameReader (committed r) c := by
  cases i <;> cases h
  case pgReset | rtgNone | rtgI | rtgA | rtgDgi | rtgDga | tkDis | tkWait | tkRise | tkFall =>
    exact ⟨rfl, rfl, rfl, rfl, rfl⟩
  all_goals cases hi

theorem stageEffect_sameReader {g : Stage} {ch : Nat} {rst : Bool} {e : Sampled} {c : Channel}
    {r : Channel × List EventInfo} (hg : g ≠ .reader) (h : stageEffect g ch rst e c = .next r) :
    SameReader r.1 c := by
  obtain ⟨x, hx, hr⟩ := chain_eq_next.1 h
  cases hr
  exact committed_sameReader (by rw [stageOp_isReader, decide_eq_false hg]) hx

/-- A channel's cycle leaves the reader's part as the reader's stage set it. -/
theorem channelCycle_sameReader {ch : Nat} {rst : Bool} {e : Sampled} {c : Channel}
    {x : Channel × Option EventInfo} {r : Channel × List EventInfo}
    (hx : effect (readerOp ch rst e c) e c = .next x) (h : channelCycle ch rst e c = .next r) :
    SameReader r.1 (committed x) := by
  obtain ⟨r1, h1, h⟩ := chain_eq_next.1 h
  obtain ⟨r2, h2, h⟩ := chain_eq_next.1 h
  rw [stageEffect, stageOp, hx] at h1
  cases h1
  have hretarget := stageEffect_sameReader (by decide) h2
  split at h
  · cases h
    exact hretarget
  · obtain ⟨r3, h3, h⟩ := chain_eq_next.1 h
    cases h
    exact (stageEffect_sameReader (by decide) h3).trans hretarget

/-- After a step the reader's part of a channel is what the reader's stage made of it. -/
theorem step_sameReader {s t : State} {ch : Nat} {c c' : Channel} {x : Channel × Option EventInfo}
    (h : step s = .next t) (hc : s.chans[ch]? = some c) (hc' : t.chans[ch]? = some c')
    (hx : effect (readerOp ch s.inp.rst (s.sampled ch) c.cleared) (s.sampled ch) c.cleared =
      .next x) : SameReader c' (committed x) := by
  obtain ⟨-, -, -, -, -, -, -, hcycles, -⟩ := step_next h
  obtain ⟨hlt, -⟩ := List.getElem?_eq_some_iff.1 hc
  obtain ⟨c₀, r, hc₀, hr, ht⟩ := hcycles ch hlt
  obtain rfl : c = c₀ := Option.some.inj (hc.symm.trans hc₀)
  obtain rfl : c' = r.1 := Option.some.inj (hc'.symm.trans ht)
  exact channelCycle_sameReader hx hr

/-! ### A held frame (R119, 70_reset_and_hazards.md R251) -/

/-- The mark of a stuck reader, as a condition on the state. -/
theorem stuck_iff (c : Channel) (rst : Bool) (i : ChanIn) :
    c.stuck rst i = true ↔ (rst = false ∧ c.fr.st = .complete) ∧ i.frameAck = false := by
  rw [Channel.stuck, Bool.and_eq_true, frameValid_iff, Bool.not_eq_true']

/-- CP.HOLD is selected exactly where a frame is held without an acknowledge. -/
theorem stuck_iff_cpHold {s : State} {ch : Nat} {c : Channel} (hc : s.chans[ch]? = some c) :
    c.stuck s.inp.rst (s.chanIn ch) = true ↔
      ∃ v e p q, s.selected .reader ch = some (.cpHold ch v e p q) := by
  rw [stuck_iff]
  constructor
  · rintro ⟨⟨hr, hs⟩, hk⟩
    rw [selected_complete hc hr hs, if_neg (by simp [hk])]
    exact ⟨_, _, _, _, rfl⟩
  · rintro ⟨v, e, p, q, hsel⟩
    obtain ⟨hs, -, hreset⟩ := transitionTable.2 s ch c _ hc hsel
    have hs : c.fr.st = .complete := hs
    have hr : s.inp.rst = false := by
      rw [← Bool.not_eq_true, hreset]
      simp
    refine ⟨⟨hr, hs⟩, ?_⟩
    rw [selected_complete hc hr hs] at hsel
    split_ifs at hsel with hk
    · simp at hsel
    · simpa using hk

/-- A reader in Complete without an acknowledge keeps its channel and raises nothing. -/
theorem readerEffect_hold (ch : Nat) {e : Sampled} {c : Channel} (hs : c.fr.st = .complete)
    (hk : e.inp.frameAck = false) : effect (readerOp ch false e c) e c = .next (c, none) := by
  rw [readerOp_complete ch e hs, if_neg (by simp [hk])]
  rfl

/-- Settles O20: CP.HOLD is the reader's stage of the step, and the pulse generator's stages leave what it
leaves. -/
theorem heldFrameStays : Obligations.HeldFrameStays := by
  intro s ch c hc
  refine ⟨fun v e p q => holdChannel_some hc, fun hr hs => ?_, stuck_iff_cpHold hc⟩
  have hnt : c.fr.st.timed = false := by rw [hs]; rfl
  have hv : c.frameValid false = true := (frameValid_iff c false).2 ⟨rfl, hs⟩
  refine ⟨fun hk => (stuck_iff_cpHold hc).1 ((stuck_iff ..).2 ⟨⟨hr, hs⟩, hk⟩), hv,
    fun n => if_pos hv, fun n => if_pos hv, not_rxReady_of_not_timed hnt false,
    not_consumes_of_not_timed hnt false _, fun n a => if_pos hv, fun t c' hk h hc' => ?_⟩
  have hx := readerEffect_hold ch (e := s.sampled ch) (c := c.cleared) hs hk
  rw [← hr] at hx
  obtain ⟨hfr, hbuf, hframe, htimeout, hoverflow⟩ := step_sameReader h hc hc' hx
  have hs' : c'.fr.st = .complete := by rw [hfr]; exact hs
  refine ⟨hfr, hbuf, hframe, htimeout, hoverflow, ?_⟩
  rw [stuck_iff, and_iff_left hs']

/-! ### An expired timeout (R121, R133, R134) -/

/-- In a timed state an expired timeout leaves ToAwait and the presented byte, and raises FramingTimeout. -/
theorem readerEffect_timeout (ch : Nat) {e : Sampled} {c : Channel} (ht : c.fr.st.timed = true)
    (hx : elapsed e.now c.fr.tRef > c.cfg.timeoutMs) :
    effect (readerOp ch false e c) e c =
      .next (c.afterTimeout e.now e.inp, some (.framingTimeout c.fr.st.code)) := by
  rcases (FrState.timed_iff c.fr.st).1 ht with hs | hs | hs
  · rw [readerOp_awaiting ch e hs, if_pos hx, hs]
    rfl
  · rw [readerOp_body ch e hs, if_pos hx, hs]
    rfl
  · rw [readerOp_trailer ch e hs, if_pos hx, hs]
    rfl

/-- Between two samples that R240 keeps apart, the modular difference is the true one, across a wrap too
(60_exceptions.md R210). -/
theorem elapsed_eq_of_trueTimes {first second : Time} {t0 t1 : Nat}
    (h : TrueTimes first second t0 t1) : elapsed second first = t1 - t0 := by
  obtain ⟨rfl, rfl, hle, hlt⟩ := h
  rw [elapsed, BitVec.toNat_sub, BitVec.toNat_ofNat, BitVec.toNat_ofNat]
  omega

/-- A timeout leaves at most the presented byte matched. -/
theorem afterTimeout_mp_le (c : Channel) (now : Time) (i : ChanIn) :
    (c.afterTimeout now i).fr.mp.toNat ≤ 1 := by
  unfold Channel.afterTimeout
  dsimp only
  split_ifs <;> decide

/-- Settles O59: the elapsed time is the true one, so that the step's reader stage is the state's TMO. -/
theorem timeoutBoundsRecovery : Obligations.TimeoutBoundsRecovery := by
  intro s t ch c c' t0 t1 h hc hc' hr ht htimes hlong
  have hexpired : elapsed s.now c.fr.tRef > c.cfg.timeoutMs := by
    rw [elapsed_eq_of_trueTimes htimes]
    exact hlong
  have hx := readerEffect_timeout ch (e := s.sampled ch) (c := c.cleared) ht hexpired
  rw [← hr] at hx
  obtain ⟨hfr, -, -, htimeout, -⟩ := step_sameReader h hc hc' hx
  rw [hfr]
  exact ⟨rfl, rfl, afterTimeout_mp_le c.cleared s.now (s.chanIn ch), htimeout⟩

end Sys2Proof.Machine

namespace Sys2Proof.Machine

/-! A channel's frame reader over a stream of bytes (40_frame_reader.md R125 to R130): what one byte does with no
timeout, streams that raise no event, and from them the start marker, the body, the frame and the overflow. -/

/-! ### What one byte does, with no timeout -/

/-- What a byte within the reserve makes of a channel in ReadingBody, by the end test (R112, R113). -/
def Channel.bodyByte (ch : Nat) (c : Channel) (now : Time) (b : Byte) : Channel :=
  if c.endTest ch b = true then
    { c.append b with
      fr := { (c.append b).fr with st := .readingTrailer, trl := 0, tRef := now } }
  else c.append b

/-- What a byte makes of a channel in ReadingTrailer, by the trailer bytes so far (R116, R117). -/
def Channel.trailerByte (c : Channel) (now : Time) (b : Byte) : Channel :=
  if c.fr.trl = 2 then
    { c.append b with
      fr := { (c.append b).fr with st := .complete, trl := 3, tRef := now } }
  else { c.append b with fr := { (c.append b).fr with trl := c.fr.trl + 1 } }

section

variable (ch : Nat) {e : Sampled} {c : Channel} (hv : e.inp.rxValid = true)
  (ht : elapsed e.now c.fr.tRef ≤ c.cfg.timeoutMs)

include hv ht

theorem readerEffect_awaiting_byte (hs : c.fr.st = .awaitingStart) :
    effect (readerOp ch false e c) e c = .next (c.asByte e.now e.inp.rxData, none) := by
  rw [readerOp_awaiting ch e hs, if_neg (Nat.not_lt.2 ht), if_neg (by simp [hv])]
  unfold Channel.asByte
  by_cases hb : e.inp.rxData = startByte c.fr.mp
  · rw [if_neg (not_not.2 hb), if_pos hb]
    split <;> rfl
  · rw [if_pos hb, if_neg hb]
    rfl

theorem readerEffect_body_byte (hs : c.fr.st = .readingBody)
    (hroom : c.fr.len.toNat + 1 + trailerLen ≤ c.cfg.bufCap) :
    effect (readerOp ch false e c) e c =
      .next (c.bodyByte ch e.now e.inp.rxData, none) := by
  rw [readerOp_body ch e hs, if_neg (Nat.not_lt.2 ht), if_neg (by simp [hv]),
    if_neg (Nat.not_lt.2 hroom), Channel.bodyByte]
  split <;> rfl

theorem readerEffect_body_overflow (hs : c.fr.st = .readingBody)
    (hroom : c.fr.len.toNat + 1 + trailerLen > c.cfg.bufCap) :
    effect (readerOp ch false e c) e c =
      .next (c.toAwait e.now, some (.bufferOverflow c.fr.len)) := by
  rw [readerOp_body ch e hs, if_neg (Nat.not_lt.2 ht), if_neg (by simp [hv]), if_pos hroom]
  rfl

theorem readerEffect_trailer_byte (hs : c.fr.st = .readingTrailer) :
    effect (readerOp ch false e c) e c =
      .next (c.trailerByte e.now e.inp.rxData, none) := by
  rw [readerOp_trailer ch e hs, if_neg (Nat.not_lt.2 ht), if_neg (by simp [hv]),
    Channel.trailerByte]
  split <;> rfl

end

/-! ### A stream's cycle -/

/-- What a cycle that presents a byte offers the channel. -/
def Arrival.sampled (a : Arrival) (idleDefaultMs : Nat) : Sampled :=
  { idleDefaultMs := idleDefaultMs, now := a.now
    inp := { ChanIn.idle with rxValid := true, rxData := a.byte } }

theorem presenting_sampled (s : State) (ch : Nat) (a : Arrival) :
    (s.presenting ch a).sampled ch = a.sampled s.idleDefaultMs := by
  have hin : (s.presenting ch a).chanIn ch =
      { ChanIn.idle with rxValid := true, rxData := a.byte } := by
    simp [State.chanIn, State.presenting, List.getD]
  rw [State.sampled, hin]
  rfl

/-- The reader's stage of a cycle that presents a byte. -/
theorem runStage_presenting {s : State} {ch : Nat} {c : Channel} {a : Arrival}
    {r : Channel × Option EventInfo} (hc : s.chans[ch]? = some c)
    (h : effect (readerOp ch false (a.sampled s.idleDefaultMs) c) (a.sampled s.idleDefaultMs) c =
      .next r) :
    runStage .reader ch (s.presenting ch a) = .next ((s.presenting ch a).commit ch r) := by
  rw [runStage_eq .reader (s := s.presenting ch a) hc, presenting_sampled]
  exact congrArg (fun x => chain x _) h

/-- No timeout, in a state it is evaluated in. -/
theorem elapsed_le_of_not_expired {s : State} {ch : Nat} {c : Channel} {a : Arrival}
    (hc : s.chans[ch]? = some c) (ht : c.fr.st.timed = true)
    (h : (s.presenting ch a).expired ch = false) :
    elapsed a.now c.fr.tRef ≤ c.cfg.timeoutMs := by
  have hc' : (s.presenting ch a).chans[ch]? = some c := hc
  have hle : elapsed (s.presenting ch a).now c.fr.tRef ≤ c.cfg.timeoutMs := by
    simpa [State.expired, hc', Channel.exp, ht] using h
  exact hle

theorem feed_append (ch : Nat) (as bs : List Arrival) (s : State) :
    feed ch (as ++ bs) s = chain (feed ch as s) (feed ch bs) := by
  induction as generalizing s with
  | nil => rfl
  | cons a as ih => simp only [List.cons_append, feed, ih, chain_assoc]

/-- No timeout in a stream is none in its first part, and none in the rest from where that ends. -/
theorem noTimeout_append {ch : Nat} {as bs : List Arrival} {s : State}
    (h : NoTimeout ch (as ++ bs) s) :
    NoTimeout ch as s ∧ ∀ t, feed ch as s = .next t → NoTimeout ch bs t := by
  induction as generalizing s with
  | nil =>
    refine ⟨trivial, fun t ht => ?_⟩
    cases ht
    exact h
  | cons a as ih =>
    obtain ⟨hx, hrest⟩ := h
    refine ⟨⟨hx, fun u hu => (ih (hrest u hu)).1⟩, fun t ht => ?_⟩
    obtain ⟨u, hu, ht⟩ := chain_eq_next.1 ht
    exact (ih (hrest u hu)).2 t ht

/-! ### Streams that raise no event -/

/-- From `s` the stream leads to `t`, where the channel is `c'`, and no event is raised. -/
structure QuietFeed (ch : Nat) (as : List Arrival) (s t : State) (c' : Channel) : Prop where
  feeds : feed ch as s = .next t
  chan : t.chans[ch]? = some c'
  history : t.history = s.history

theorem QuietFeed.nil {ch : Nat} {s : State} {c : Channel} (hc : s.chans[ch]? = some c) :
    QuietFeed ch [] s s c := ⟨rfl, hc, rfl⟩

theorem QuietFeed.append {ch : Nat} {as bs : List Arrival} {s t u : State} {c d : Channel}
    (h : QuietFeed ch as s t c) (h' : QuietFeed ch bs t u d) : QuietFeed ch (as ++ bs) s u d :=
  ⟨by rw [feed_append, h.feeds, chain_next, h'.feeds], h'.chan, h'.history.trans h.history⟩

/-- A byte that raises no event. -/
theorem quietFeed_singleton {s : State} {ch : Nat} {c c' : Channel} {a : Arrival}
    (hc : s.chans[ch]? = some c)
    (h : ∀ n, effect (readerOp ch false (a.sampled n) c) (a.sampled n) c = .next (c', none)) :
    ∃ t, QuietFeed ch [a] s t c' := by
  refine ⟨(s.presenting ch a).setChannel ch c', ?_, chans_set_same hc c', rfl⟩
  simp only [feed, runStage_presenting hc (h _), chain_next]
  rfl

/-- A byte taken in a timed state with no timeout, and raising no event. -/
theorem quietFeed_byte {s : State} {ch : Nat} {c c' : Channel} {a : Arrival} {as : List Arrival}
    (hc : s.chans[ch]? = some c) (ht : c.fr.st.timed = true) (hn : NoTimeout ch (a :: as) s)
    (h : elapsed a.now c.fr.tRef ≤ c.cfg.timeoutMs → ∀ n,
      effect (readerOp ch false (a.sampled n) c) (a.sampled n) c = .next (c', none)) :
    ∃ t, QuietFeed ch [a] s t c' ∧ NoTimeout ch as t := by
  obtain ⟨t, hfeed⟩ := quietFeed_singleton hc (h (elapsed_le_of_not_expired hc ht hn.1))
  exact ⟨t, hfeed, (noTimeout_append (as := [a]) hn).2 t hfeed.feeds⟩

/-- A frame held in Complete stays while bytes are presented (R119). -/
theorem quietFeed_complete {ch : Nat} (as : List Arrival) {s : State} {c : Channel}
    (hc : s.chans[ch]? = some c) (hs : c.fr.st = .complete) : ∃ t, QuietFeed ch as s t c := by
  induction as generalizing s with
  | nil => exact ⟨s, .nil hc⟩
  | cons a as ih =>
    obtain ⟨t, ht⟩ := quietFeed_singleton (a := a) hc fun n => readerEffect_hold ch hs rfl
    obtain ⟨u, hu⟩ := ih ht.chan
    exact ⟨u, ht.append hu⟩

/-- Where a stream has not ended in Complete, no part of it has. -/
theorem not_complete_before {ch : Nat} {as bs : List Arrival} {s t u : State} {c d : Channel}
    (ht : QuietFeed ch (as ++ bs) s t c) (hs : c.fr.st ≠ .complete)
    (hu : feed ch as s = .next u) (hd : u.chans[ch]? = some d) : d.fr.st ≠ .complete := by
  intro hcomplete
  obtain ⟨v, hv⟩ := quietFeed_complete bs hd hcomplete
  have htv : t = v := by
    have hfeeds := ht.feeds
    rw [feed_append, hu, chain_next, hv.feeds] at hfeeds
    cases hfeeds
    rfl
  subst htv
  obtain rfl : c = d := Option.some.inj (ht.chan.symm.trans hv.chan)
  exact hs hcomplete

/-! ### The match position (R124, R125) -/

/-- ASByte's match position after a byte that does not complete the start marker. -/
def nextMatch (mp : BitVec 3) (b : Byte) : BitVec 3 :=
  if b = startByte mp then mp + 1 else if b = 0x1B then 1 else 0

/-- The match position after a run of bytes, if none of them completes the start marker. -/
def matchRun (mp : BitVec 3) : List Byte → Option (BitVec 3)
  | [] => some mp
  | b :: bs => if b = startByte mp ∧ mp = 7 then none else matchRun (nextMatch mp b) bs

/-- The byte that completes the start marker. -/
theorem asByte_of_completes {c : Channel} {now : Time} {b : Byte}
    (h : b = startByte c.fr.mp ∧ c.fr.mp = 7) : c.asByte now b = c.startFrame now := by
  rw [Channel.asByte, if_pos h.1, if_pos h.2]

/-- Any other byte. -/
theorem asByte_of_not_completes {c : Channel} {now : Time} {b : Byte}
    (h : ¬(b = startByte c.fr.mp ∧ c.fr.mp = 7)) :
    c.asByte now b = { c with fr := { c.fr with mp := nextMatch c.fr.mp b } } := by
  unfold Channel.asByte nextMatch
  by_cases hb : b = startByte c.fr.mp
  · rw [if_pos hb, if_pos hb, if_neg fun h7 => h ⟨hb, h7⟩]
    rfl
  · rw [if_neg hb, if_neg hb]
    rfl

/-- A byte in AwaitingStart is ASByte's. -/
theorem quietFeed_asByte {s : State} {ch : Nat} {c : Channel} {a : Arrival} {as : List Arrival}
    (hc : s.chans[ch]? = some c) (hs : c.fr.st = .awaitingStart) (hn : NoTimeout ch (a :: as) s) :
    ∃ t, QuietFeed ch [a] s t (c.asByte a.now a.byte) ∧ NoTimeout ch as t :=
  quietFeed_byte hc (by rw [hs]; rfl) hn fun ht _ => readerEffect_awaiting_byte ch rfl ht hs

/-- Bytes that do not complete the start marker change the match position alone. -/
theorem quietFeed_matchRun {ch : Nat} {as : List Arrival} {s : State} {c : Channel} {m : BitVec 3}
    (hc : s.chans[ch]? = some c) (hs : c.fr.st = .awaitingStart)
    (hm : matchRun c.fr.mp (as.map fun a => a.byte) = some m) (hn : NoTimeout ch as s) :
    ∃ t, QuietFeed ch as s t { c with fr := { c.fr with mp := m } } := by
  induction as generalizing s c with
  | nil =>
    obtain rfl := Option.some.inj hm
    exact ⟨s, .nil hc⟩
  | cons a as ih =>
    simp only [List.map_cons, matchRun] at hm
    split at hm
    case isTrue => cases hm
    case isFalse hno =>
      obtain ⟨t, ht, hnt⟩ := quietFeed_asByte hc hs hn
      rw [asByte_of_not_completes hno] at ht
      obtain ⟨u, hu⟩ := ih ht.chan hs hm hnt
      exact ⟨u, ht.append hu⟩

/-- The first seven bytes of the start marker lead to `mp = 7` from 0 and from 4 to 7 (R125). -/
theorem matchRun_startMarker_init : ∀ mp : BitVec 3, ¬(1 ≤ mp.toNat ∧ mp.toNat ≤ 3) →
    matchRun mp (startMarker.take 7) = some 7 := by decide

/-- All eight lead to `mp = 0` from 1 to 3 (R125). -/
theorem matchRun_startMarker_missed : ∀ mp : BitVec 3, 1 ≤ mp.toNat → mp.toNat ≤ 3 →
    matchRun mp startMarker = some 0 := by decide

/-- The start marker from a match position that recognises it: the frame begins at its last byte. -/
theorem quietFeed_startMarker {ch : Nat} {as : List Arrival} {s : State} {c : Channel}
    (hc : s.chans[ch]? = some c) (hs : c.fr.st = .awaitingStart)
    (hmp : ¬(1 ≤ c.fr.mp.toNat ∧ c.fr.mp.toNat ≤ 3))
    (has : as.map (fun a => a.byte) = startMarker) (hn : NoTimeout ch as s) :
    ∃ t now, QuietFeed ch as s t (c.startFrame now) := by
  obtain ⟨init, last, rfl, hinit, hlast⟩ := List.map_eq_append_iff.1
    (has.trans (List.take_append_drop 7 startMarker).symm)
  obtain ⟨a, rfl, ha⟩ := List.map_eq_singleton_iff.1 hlast
  obtain ⟨hninit, hnlast⟩ := noTimeout_append hn
  obtain ⟨t, ht⟩ := quietFeed_matchRun (m := 7) hc hs
    (by rw [hinit]; exact matchRun_startMarker_init _ hmp) hninit
  obtain ⟨u, hu, -⟩ := quietFeed_asByte ht.chan hs (hnlast t ht.feeds)
  rw [asByte_of_completes ⟨ha, rfl⟩] at hu
  exact ⟨u, a.now, ht.append hu⟩

/-- Settles O53: seven bytes lead to `mp = 7` or all eight to `mp = 0`. -/
theorem startRecognition : Obligations.StartRecognition := by
  intro s ch c as hc _ hs has hn
  by_cases hmp : 1 ≤ c.fr.mp.toNat ∧ c.fr.mp.toNat ≤ 3
  · obtain ⟨h1, h3⟩ := hmp
    obtain ⟨t, ht⟩ := quietFeed_matchRun hc hs
      (by rw [has]; exact matchRun_startMarker_missed _ h1 h3) hn
    refine ⟨t, _, ht.feeds, ht.chan, ht.history, fun h => ?_, fun _ _ => ⟨hs, rfl⟩⟩
    rcases h with h | h
    · rw [h] at h1
      exact absurd h1 (by decide)
    · omega
  · obtain ⟨t, now, ht⟩ := quietFeed_startMarker hc hs hmp has hn
    exact ⟨t, _, ht.feeds, ht.chan, ht.history, fun _ => ⟨rfl, rfl⟩,
      fun h1 h3 => absurd ⟨h1, h3⟩ hmp⟩

/-- A byte 1B moves the match positions 1 to 4 round in a circle. -/
theorem nextMatch_marker : ∀ mp : BitVec 3, 1 ≤ mp.toNat → mp.toNat ≤ 4 →
    (nextMatch mp 0x1B).toNat = mp.toNat % 4 + 1 ∧ mp ≠ 7 := by decide

/-- A run of bytes 1B from a match position of 1 to 4. -/
theorem matchRun_replicate (r : Nat) {mp : BitVec 3} (h1 : 1 ≤ mp.toNat) (h4 : mp.toNat ≤ 4) :
    ∃ m, matchRun mp (List.replicate r 0x1B) = some m ∧
      m.toNat = (mp.toNat - 1 + r) % 4 + 1 := by
  induction r generalizing mp with
  | zero => exact ⟨mp, rfl, by omega⟩
  | succ r ih =>
    obtain ⟨hnext, h7⟩ := nextMatch_marker mp h1 h4
    obtain ⟨m, hm, hmod⟩ := ih (mp := nextMatch mp 0x1B) (by omega) (by omega)
    refine ⟨m, ?_, by omega⟩
    rw [List.replicate_succ, matchRun, if_neg fun h => h7 h.2, hm]

/-- Settles O54: the first byte leads from 0 to 1, and the others round the circle of four. -/
theorem runOfMarkerBytes : Obligations.RunOfMarkerBytes := by
  intro s ch c as hc hs hmp has hne hn
  obtain ⟨r, hr⟩ := Nat.exists_eq_succ_of_ne_zero (List.length_pos_of_ne_nil hne).ne'
  have hbytes : as.map (fun a => a.byte) = List.replicate (r + 1) 0x1B :=
    List.eq_replicate_iff.2 ⟨by rw [List.length_map, hr], by simpa using has⟩
  obtain ⟨m, hm, hmod⟩ := matchRun_replicate r (mp := 1) (by decide) (by decide)
  obtain ⟨t, ht⟩ := quietFeed_matchRun (m := m) hc hs (by rw [hbytes, hmp]; exact hm) hn
  refine ⟨t, _, ht.feeds, ht.chan, hs, ?_⟩
  rw [hr, hmod]
  simp

/-! ### The match position is truthful (R127) -/

theorem startMarker_take_succ : ∀ mp : BitVec 3,
    startMarker.take (mp.toNat + 1) = startMarker.take mp.toNat ++ [startByte mp] := by decide

/-- A matched byte lengthens the part of the marker that the bytes end in. -/
theorem matched_suffix {seen : List Byte} {mp : BitVec 3} {b : Byte}
    (h : startMarker.take mp.toNat <:+ seen) (hb : b = startByte mp) :
    startMarker.take (mp.toNat + 1) <:+ seen ++ [b] := by
  obtain ⟨p, rfl⟩ := h
  rw [startMarker_take_succ, ← hb]
  exact ⟨p, (List.append_assoc ..).symm⟩

/-- A byte that does not complete the marker keeps the match position truthful. -/
theorem nextMatch_suffix {seen : List Byte} {mp : BitVec 3} {b : Byte}
    (h : startMarker.take mp.toNat <:+ seen) (hno : ¬(b = startByte mp ∧ mp = 7)) :
    startMarker.take (nextMatch mp b).toNat <:+ seen ++ [b] := by
  unfold nextMatch
  split_ifs with hb h1B
  · have hsucc : ∀ m : BitVec 3, m ≠ 7 → (m + 1).toNat = m.toNat + 1 := by decide
    rw [hsucc mp fun h7 => hno ⟨hb, h7⟩]
    exact matched_suffix h hb
  · rw [h1B]
    exact List.suffix_append _ _
  · exact List.nil_suffix

/-- Settles O55: a byte that completes the marker starts the frame, and any other moves the match position. -/
theorem noFalseStart : Obligations.NoFalseStart := by
  intro s t ch c c' seen a hc hs htrue hx hrun hc'
  have ht := elapsed_le_of_not_expired hc (by rw [hs]; rfl) hx
  rw [runStage_presenting hc (readerEffect_awaiting_byte ch rfl ht hs)] at hrun
  cases hrun
  obtain rfl : c.asByte a.now a.byte = c' :=
    Option.some.inj ((chans_set_same (s := s.presenting ch a) hc _).symm.trans hc')
  by_cases h : a.byte = startByte c.fr.mp ∧ c.fr.mp = 7
  · rw [asByte_of_completes h]
    refine ⟨nofun, fun _ => ?_, .inr rfl⟩
    have hwhole := matched_suffix htrue h.1
    rw [h.2] at hwhole
    exact hwhole
  · rw [asByte_of_not_completes h]
    exact ⟨fun _ => nextMatch_suffix htrue h, fun hbody => absurd (hs.symm.trans hbody) (by decide),
      .inl hs⟩

end Sys2Proof.Machine

namespace Sys2Proof.Machine

/-! The bytes of the current frame (20_memory.md R54, R58) over a stream: what an append adds to them, the end test on
them, and the body, the frame and the overflow of R128 to R130. -/

/-! ### Where the end marker can lie -/

theorem endMarker_eq : endMarker = List.replicate 4 0x1B ++ [0x1A] := rfl

/-- The end marker as the last five bytes: four bytes 1B and 1A. -/
theorem endMarker_suffix_concat_iff {bs : List Byte} {b : Byte} :
    endMarker <:+ bs ++ [b] ↔ List.replicate 4 0x1B <:+ bs ∧ b = 0x1A := by
  rw [endMarker_eq, List.suffix_append_inj_of_length_eq (s₁ := [0x1A]) (s₂ := [b]) rfl,
    List.singleton_inj, eq_comm (a := b)]

/-- A byte other than 1A completes no end marker. -/
theorem endMarker_not_infix_append {bs cs : List Byte} (h : ¬endMarker <:+: bs)
    (hcs : ∀ b ∈ cs, b ≠ 0x1A) : ¬endMarker <:+: bs ++ cs := by
  induction cs generalizing bs with
  | nil => rwa [List.append_nil]
  | cons b cs ih =>
    obtain ⟨hb, hcs⟩ := List.forall_mem_cons.1 hcs
    rw [← List.singleton_append, ← List.append_assoc]
    refine ih (fun hin => ?_) hcs
    rcases List.infix_concat_iff.1 hin with hlast | hin
    · exact hb (endMarker_suffix_concat_iff.1 hlast).2
    · exact h hin

/-- The end marker has no byte 01, in which the start marker ends, so that it lies behind it (R128). -/
theorem endMarker_not_infix_startMarker_append {bs : List Byte} (h : ¬endMarker <:+: bs) :
    ¬endMarker <:+: startMarker ++ bs := by
  intro hin
  rcases List.infix_append_iff.1 hin with hstart | hbs | ⟨l, r, hlr, hl, hr⟩
  · exact absurd hstart (by decide)
  · exact h hbs
  · have hsplit : startMarker = startMarker.take 7 ++ [0x01] := rfl
    rw [hsplit, List.suffix_concat_iff] at hl
    rcases hl with rfl | ⟨u, rfl, -⟩
    · exact h (hlr ▸ hr.isInfix)
    · exact absurd (hlr ▸ by simp : (0x01 : Byte) ∈ endMarker) (by decide)

/-! ### The bytes of the current frame -/

/-- A frame's bytes, where the buffer is read byte by byte. -/
theorem frameBytes_eq_of_memRead {ch : Nat} {c : Channel} {bs : List Byte}
    (hlen : c.fr.len.toNat = bs.length)
    (h : ∀ k (hk : k < bs.length), memRead ch c k = bs[k]) : frameBytes ch c = bs := by
  refine List.ext_getElem (by simp [hlen]) fun k hk hk' => ?_
  simp [frameBytes, h k hk']

/-- AS.START leaves the start marker. -/
theorem frameBytes_startFrame (ch : Nat) {c : Channel} (now : Time) (h : 8 ≤ c.cfg.bufCap) :
    frameBytes ch (c.startFrame now) = startMarker := by
  refine frameBytes_eq_of_memRead rfl fun k hk => ?_
  rw [startMarker_length] at hk
  rw [memRead, startFrame_read?, if_pos ⟨hk, by omega⟩, List.getElem?_eq_getElem hk]
  rfl

/-- An append within the buffer adds its byte. -/
theorem frameBytes_append (ch : Nat) {c : Channel} (b : Byte) (hl : c.cfg.legal = true)
    (h : c.fr.len.toNat < c.cfg.bufCap) :
    frameBytes ch (c.append b) = frameBytes ch c ++ [b] := by
  have hlen : (c.append b).fr.len.toNat = (frameBytes ch c ++ [b]).length := by
    rw [append_len_toNat b hl h, List.length_append, frameBytes_length, List.length_singleton]
  refine frameBytes_eq_of_memRead hlen fun k hk => ?_
  rw [memRead, append_read?]
  rcases Nat.lt_succ_iff_lt_or_eq.1 (show k < c.fr.len.toNat + 1 by simpa using hk) with hlt | rfl
  · rw [if_neg fun h => Nat.ne_of_lt hlt h.1, List.getElem_append_left (by simpa using hlt)]
    simp [frameBytes, memRead]
  · simp [h]

/-- The end test is about the frame's bytes and the one presented (30_encoding.md R77). -/
theorem endTest_iff_suffix {ch : Nat} {c : Channel} (b : Byte) (h4 : 4 ≤ c.fr.len.toNat) :
    c.endTest ch b = true ↔ endMarker <:+ frameBytes ch c ++ [b] := by
  have hfour : List.replicate 4 0x1B <:+ frameBytes ch c ↔
      ∀ n, n < 4 → memRead ch c (c.fr.len.toNat - 4 + n) = 0x1B := by
    simp only [List.suffix_iff_getElem?, List.length_replicate, frameBytes_length, h4, true_and,
      List.getElem_replicate]
    refine forall₂_congr fun n hn => ?_
    have hpos : n + c.fr.len.toNat - 4 = c.fr.len.toNat - 4 + n := by omega
    rw [hpos, frameBytes_getElem? ch (by omega), Option.some_inj]
  rw [endTest_iff_memRead b h4, endMarker_suffix_concat_iff, hfour]

/-! ### A channel with a frame in progress -/

/-- The channel of this build is in state `st` with the frame's bytes `bs`. -/
structure HasFrame (ch : Nat) (cfg : ChannelConfig) (st : FrState) (bs : List Byte)
    (c : Channel) : Prop where
  cfg : c.cfg = cfg
  st : c.fr.st = st
  bytes : frameBytes ch c = bs

section

variable {ch : Nat} {cfg : ChannelConfig} {st : FrState} {bs : List Byte} {c : Channel}

theorem HasFrame.len (h : HasFrame ch cfg st bs c) : c.fr.len.toNat = bs.length := by
  rw [← h.bytes, frameBytes_length]

/-- An append within the buffer, with any state code and `trl`. -/
theorem HasFrame.append (h : HasFrame ch cfg st bs c) (hl : cfg.legal = true)
    (hroom : bs.length < cfg.bufCap) (b : Byte) (st' : FrState) (trl : BitVec 2) (tRef : Time) :
    HasFrame ch cfg st' (bs ++ [b])
      { c.append b with
        fr := { (c.append b).fr with st := st', trl := trl, tRef := tRef } } := by
  refine ⟨h.cfg, rfl, ?_⟩
  rw [← h.bytes]
  exact frameBytes_append ch b (h.cfg ▸ hl) (by rw [h.len, h.cfg]; exact hroom)

/-- The start marker from a match position that recognises it. -/
theorem quietFeed_startMarker_hasFrame {as : List Arrival} {s : State}
    (hc : s.chans[ch]? = some c) (hl : c.cfg.legal = true) (hs : c.fr.st = .awaitingStart)
    (hmp : ¬(1 ≤ c.fr.mp.toNat ∧ c.fr.mp.toNat ≤ 3))
    (has : as.map (fun a => a.byte) = startMarker) (hn : NoTimeout ch as s) :
    ∃ t d, QuietFeed ch as s t d ∧ HasFrame ch c.cfg .readingBody startMarker d := by
  obtain ⟨h16, -⟩ := ChannelConfig.legal_bufCap hl
  obtain ⟨t, now, ht⟩ := quietFeed_startMarker hc hs hmp has hn
  exact ⟨t, _, ht, rfl, rfl, frameBytes_startFrame ch now (by omega)⟩

/-- A body byte within the reserve goes to the frame, and ends the body if the frame then ends in END. -/
theorem quietFeed_body_byte {s : State} {a : Arrival} {as : List Arrival}
    (hc : s.chans[ch]? = some c) (h : HasFrame ch cfg .readingBody bs c) (hl : cfg.legal = true)
    (h4 : 4 ≤ bs.length) (hroom : bs.length + 1 + trailerLen ≤ cfg.bufCap)
    (hn : NoTimeout ch (a :: as) s) :
    ∃ t d, QuietFeed ch [a] s t d ∧ NoTimeout ch as t ∧
      (¬endMarker <:+ bs ++ [a.byte] → HasFrame ch cfg .readingBody (bs ++ [a.byte]) d) ∧
      (endMarker <:+ bs ++ [a.byte] →
        HasFrame ch cfg .readingTrailer (bs ++ [a.byte]) d ∧ d.fr.trl = 0) := by
  have hlt : bs.length < cfg.bufCap := by omega
  have htest : c.endTest ch a.byte = true ↔ endMarker <:+ bs ++ [a.byte] := by
    rw [endTest_iff_suffix a.byte (h.len ▸ h4), h.bytes]
  obtain ⟨t, ht, hnt⟩ := quietFeed_byte (c' := c.bodyByte ch a.now a.byte) hc
    (by rw [h.st]; rfl) hn fun hle n =>
      readerEffect_body_byte ch (e := a.sampled n) rfl hle h.st
        (by rw [h.len, h.cfg]; exact hroom)
  refine ⟨t, _, ht, hnt, fun hno => ?_, fun hend => ?_⟩ <;> unfold Channel.bodyByte
  · rw [if_neg (htest.not.2 hno)]
    have happend := h.append hl hlt a.byte c.fr.st c.fr.trl c.fr.tRef
    rw [h.st] at happend
    exact ⟨happend.cfg, h.st, happend.bytes⟩
  · rw [if_pos (htest.2 hend)]
    exact ⟨h.append hl hlt a.byte .readingTrailer 0 a.now, rfl⟩

/-- Body bytes within the reserve, with no end marker among them, go to the frame. -/
theorem quietFeed_body {as : List Arrival} {s : State} (hc : s.chans[ch]? = some c)
    (h : HasFrame ch cfg .readingBody bs c) (hl : cfg.legal = true) (h4 : 4 ≤ bs.length)
    (hroom : bs.length + as.length + trailerLen ≤ cfg.bufCap)
    (hno : ¬endMarker <:+: bs ++ as.map fun a => a.byte) (hn : NoTimeout ch as s) :
    ∃ t d, QuietFeed ch as s t d ∧
      HasFrame ch cfg .readingBody (bs ++ as.map fun a => a.byte) d := by
  induction as generalizing s c bs with
  | nil => exact ⟨s, c, .nil hc, by rwa [List.map_nil, List.append_nil]⟩
  | cons a as ih =>
    rw [List.length_cons] at hroom
    have hbytes : bs ++ (a :: as).map (fun a => a.byte) =
        bs ++ [a.byte] ++ as.map fun a => a.byte := by simp
    rw [hbytes] at hno ⊢
    obtain ⟨t, d, ht, hnt, hgoesOn, -⟩ := quietFeed_body_byte hc h hl h4 (by omega) hn
    have hnoEnd : ¬endMarker <:+ bs ++ [a.byte] := fun hend =>
      hno (hend.isInfix.trans (List.infix_append' [] _ _))
    obtain ⟨u, d', hu, hd'⟩ := ih ht.chan (hgoesOn hnoEnd) (by simp; omega)
      (by rw [List.length_append, List.length_singleton]; omega) hno hnt
    exact ⟨u, d', ht.append hu, hd'⟩

/-- A trailer byte goes to the frame, and completes it if it is the third. -/
theorem quietFeed_trailer_byte {s : State} {a : Arrival} {as : List Arrival}
    (hc : s.chans[ch]? = some c) (h : HasFrame ch cfg .readingTrailer bs c)
    (hl : cfg.legal = true) (hroom : bs.length < cfg.bufCap) (hn : NoTimeout ch (a :: as) s) :
    ∃ t d, QuietFeed ch [a] s t d ∧ NoTimeout ch as t ∧
      (c.fr.trl ≠ 2 →
        HasFrame ch cfg .readingTrailer (bs ++ [a.byte]) d ∧ d.fr.trl = c.fr.trl + 1) ∧
      (c.fr.trl = 2 → HasFrame ch cfg .complete (bs ++ [a.byte]) d) := by
  obtain ⟨t, ht, hnt⟩ := quietFeed_byte (c' := c.trailerByte a.now a.byte) hc
    (by rw [h.st]; rfl) hn fun hle n =>
      readerEffect_trailer_byte ch (e := a.sampled n) rfl hle h.st
  refine ⟨t, _, ht, hnt, fun h2 => ?_, fun h2 => ?_⟩ <;> unfold Channel.trailerByte
  · rw [if_neg h2]
    have happend := h.append hl hroom a.byte c.fr.st (c.fr.trl + 1) c.fr.tRef
    rw [h.st] at happend
    exact ⟨⟨happend.cfg, h.st, happend.bytes⟩, rfl⟩
  · rw [if_pos h2]
    exact h.append hl hroom a.byte .complete 3 a.now

end

/-! ### The body's end (R128) -/

/-- Settles O56: of the operations of ReadingBody only RB.END goes to ReadingTrailer, where R34 holds with
`trl = 0`. -/
theorem endDetectionNeverOverlapsTheStart : Obligations.EndDetectionNeverOverlapsTheStart := by
  rintro s t ch c c' hc hl ⟨-, hreader, -⟩ hr hs hrun hc' hs'
  obtain ⟨c₀, r, hc₀, hx, rfl⟩ := runStage_next hrun
  obtain rfl : c = c₀ := Option.some.inj (hc.symm.trans hc₀)
  rw [State.commit_chans, chans_set_same hc] at hc'
  obtain rfl := Option.some.inj hc'
  rw [committed_fr] at hs' ⊢
  rw [committed_buf]
  have hinv := readerEffect_keeps_readerInv hl hreader hx
  obtain ⟨h13, -, -, -, hend, -⟩ := (readerInv_trailer hs').1 hinv
  have htrl : r.1.fr.trl = 0 := by
    rw [hr, stageOp, readerOp_body ch _ hs] at hx
    split_ifs at hx <;> cases hx
    · cases hs'
    · exact absurd (hs.symm.trans hs') (by decide)
    · cases hs'
    · rfl
    · exact absurd (hs.symm.trans hs') (by decide)
  rw [htrl] at hend
  exact ⟨h13, hend⟩

/-! ### Framing (R129) -/

/-- START and then body bytes within the reserve, with no end marker among them. -/
theorem quietFeed_startMarker_body {ch : Nat} {as : List Arrival} {s : State} {c : Channel}
    {body : List Byte} (hc : s.chans[ch]? = some c) (hl : c.cfg.legal = true)
    (hs : c.fr.st = .awaitingStart) (hmp : ¬(1 ≤ c.fr.mp.toNat ∧ c.fr.mp.toNat ≤ 3))
    (has : as.map (fun a => a.byte) = startMarker ++ body) (hno : ¬endMarker <:+: body)
    (hroom : 8 + body.length + 3 ≤ c.cfg.bufCap) (hn : NoTimeout ch as s) :
    ∃ t d, QuietFeed ch as s t d ∧ HasFrame ch c.cfg .readingBody (startMarker ++ body) d := by
  obtain ⟨as₁, as₂, rfl, has₁, rfl⟩ := List.map_eq_append_iff.1 has
  rw [List.length_map] at hroom
  obtain ⟨hn₁, hn₂⟩ := noTimeout_append hn
  obtain ⟨t₁, d₁, ht₁, hd₁⟩ := quietFeed_startMarker_hasFrame hc hl hs hmp has₁ hn₁
  obtain ⟨t₂, d₂, ht₂, hd₂⟩ := quietFeed_body ht₁.chan hd₁ hl (by decide) hroom
    (endMarker_not_infix_startMarker_append hno) (hn₂ t₁ ht₁.feeds)
  exact ⟨t₂, d₂, ht₁.append ht₂, hd₂⟩

/-- A frame's bytes but for the last trailer byte: START, a payload with no end marker, END, two bytes. -/
theorem quietFeed_frame_init {ch : Nat} {as : List Arrival} {s : State} {c : Channel}
    {payload : List Byte} {f c1 : Byte} (hc : s.chans[ch]? = some c) (hl : c.cfg.legal = true)
    (hs : c.fr.st = .awaitingStart) (hmp : ¬(1 ≤ c.fr.mp.toNat ∧ c.fr.mp.toNat ≤ 3))
    (has : as.map (fun a => a.byte) = startMarker ++ payload ++ endMarker ++ [f, c1])
    (hno : ¬endMarker <:+: payload) (hroom : 8 + payload.length + 5 + 3 ≤ c.cfg.bufCap)
    (hn : NoTimeout ch as s) :
    ∃ t d, QuietFeed ch as s t d ∧ d.fr.trl = 2 ∧
      HasFrame ch c.cfg .readingTrailer (startMarker ++ payload ++ endMarker ++ [f, c1]) d := by
  have hbytes : startMarker ++ payload ++ endMarker ++ [f, c1] =
      startMarker ++ (payload ++ List.replicate 4 0x1B) ++ [0x1A, f, c1] := by
    simp [endMarker_eq]
  rw [hbytes] at has ⊢
  obtain ⟨as₁, as₂, rfl, has₁, has₂⟩ := List.map_eq_append_iff.1 has
  obtain ⟨a₁, a₂, a₃, rfl⟩ := List.length_eq_three.1
    (show as₂.length = 3 by simpa using congrArg List.length has₂)
  simp only [List.map_cons, List.map_nil, List.cons.injEq, and_true] at has₂
  obtain ⟨hb₁, rfl, rfl⟩ := has₂
  obtain ⟨hn₁, hn₂⟩ := noTimeout_append hn
  obtain ⟨t₁, d₁, ht₁, hd₁⟩ := quietFeed_startMarker_body hc hl hs hmp has₁
    (endMarker_not_infix_append hno (by decide)) (by simp; omega) hn₁
  have hlen : (startMarker ++ (payload ++ List.replicate 4 0x1B)).length = payload.length + 12 := by
    simp [startMarker_length]
    omega
  obtain ⟨t₂, d₂, ht₂, hn₃, -, hends⟩ := quietFeed_body_byte ht₁.chan hd₁ hl (by omega)
    (by unfold trailerLen; omega) (hn₂ t₁ ht₁.feeds)
  obtain ⟨hd₂, htrl₂⟩ := hends (endMarker_suffix_concat_iff.2
    ⟨⟨startMarker ++ payload, List.append_assoc ..⟩, hb₁⟩)
  obtain ⟨t₃, d₃, ht₃, hn₄, hgoesOn₃, -⟩ := quietFeed_trailer_byte ht₂.chan hd₂ hl (by
    rw [List.length_append, List.length_singleton]; omega) hn₃
  obtain ⟨hd₃, htrl₃⟩ := hgoesOn₃ (by rw [htrl₂]; decide)
  obtain ⟨t₄, d₄, ht₄, -, hgoesOn₄, -⟩ := quietFeed_trailer_byte ht₃.chan hd₃ hl (by
    simp only [List.length_append, List.length_singleton] at hlen ⊢; omega) hn₄
  obtain ⟨hd₄, htrl₄⟩ := hgoesOn₄ (by rw [htrl₃, htrl₂]; decide)
  refine ⟨t₄, d₄, ht₁.append (ht₂.append (ht₃.append ht₄)), ?_, ?_⟩
  · rw [htrl₄, htrl₃, htrl₂]
    rfl
  · simpa [hb₁] using hd₄

/-- Settles O57: the last byte completes the frame, none before it does, and CP.DLV delivers it. -/
theorem framingCorrectness : Obligations.FramingCorrectness := by
  intro s ch c as payload f c1 c2 hc hl hs hmp has hno hroom hn
  have hbytes : startMarker ++ payload ++ endMarker ++ [f, c1, c2] =
      startMarker ++ payload ++ endMarker ++ [f, c1] ++ [c2] := by simp
  rw [hbytes] at has ⊢
  obtain ⟨init, last, rfl, hinit, hlast⟩ := List.map_eq_append_iff.1 has
  obtain ⟨a, rfl, rfl⟩ := List.map_eq_singleton_iff.1 hlast
  obtain ⟨hninit, hnlast⟩ := noTimeout_append hn
  obtain ⟨t, d, ht, htrl, hd⟩ := quietFeed_frame_init hc hl hs hmp hinit hno hroom hninit
  obtain ⟨u, d', hu, -, -, hcompletes⟩ := quietFeed_trailer_byte ht.chan hd hl (by
    simp [startMarker_length, endMarker_length]; omega) (hnlast t ht.feeds)
  have hd' := hcompletes htrl
  have hall := ht.append hu
  have hlen : d'.fr.len.toNat = 16 + payload.length := by
    rw [hd'.len]
    simp [startMarker_length, endMarker_length]
    omega
  refine ⟨u, d', hall.feeds, hall.chan, hall.history, hd'.st, hlen, hd'.bytes, ?_, ?_⟩
  · intro m v x hm hv hx
    have hpre : m ≤ init.length := by simpa [Nat.lt_succ_iff] using hm
    rw [List.take_append_of_le_length hpre] at hv
    refine not_complete_before (bs := init.drop m) (by rwa [List.take_append_drop]) ?_ hv hx
    rw [hd.st]
    decide
  · intro v e p q
    refine ⟨_, _, exec_of_raising_effect (i := .cpDlv ch v e p q) hall.chan rfl,
      chans_set_same hall.chan _, rfl, ?_⟩
    have hlen' : d'.fr.len = BitVec.ofNat 16 (16 + payload.length) := by
      rw [← hlen, BitVec.ofNat_toNat, BitVec.setWidth_eq]
    rw [State.raise_history, hall.history, hd'.bytes, hlen']
    simp [chId_eq_of_cfg hd'.cfg]
    rfl

/-! ### The overflow (R111, R130) -/

/-- Settles O58: the body's bytes before the last leave `len = C - 3`, where the next byte overflows. -/
theorem overflowThreshold : Obligations.OverflowThreshold := by
  intro s ch c as body last hc hl hs hmp has hcap hno hn
  obtain ⟨hnas, hnlast⟩ := noTimeout_append hn
  obtain ⟨t, d, ht, hd⟩ := quietFeed_startMarker_body hc hl hs hmp has hno (by omega) hnas
  have hlen : d.fr.len.toNat = c.cfg.bufCap - 3 := by
    rw [hd.len, List.length_append, startMarker_length]
    omega
  have hle := elapsed_le_of_not_expired ht.chan (by rw [hd.st]; rfl) (hnlast t ht.feeds).1
  have hstage := runStage_presenting (a := last) ht.chan
    (readerEffect_body_overflow ch rfl hle hd.st (by
      rw [hlen, hd.cfg]
      unfold trailerLen
      omega))
  have hfeed : feed ch (as ++ [last]) s = .next
      ((t.presenting ch last).raise ch (d.toAwait last.now) (.bufferOverflow d.fr.len)) := by
    rw [feed_append, ht.feeds, chain_next, feed, hstage]
    rfl
  have hlen' : d.fr.len = BitVec.ofNat 16 (c.cfg.bufCap - 3) := by
    rw [← hlen, BitVec.ofNat_toNat, BitVec.setWidth_eq]
  refine ⟨_, _, hfeed, chans_set_same (s := t.presenting ch last) ht.chan _, rfl, ?_⟩
  rw [← hlen', ← ht.history, ← chId_eq_of_cfg hd.cfg]
  rfl

end Sys2Proof.Machine

namespace Sys2Proof.Machine

/-! The pulse generator (41_pulse_generator.md): the idle-duration function (R151, R165), the operation each of its two
stages selects and that operation's effect (R152 to R160), and which operations write `phase` (R150). -/

/-! ### IdleFor (R151) -/

/-- A reading at or below the degenerate limit. -/
theorem degenerate_iff (cfg : ChannelConfig) (power : BitVec 32) :
    degenerate cfg power = true ↔ power.toInt * (cfg.ppkwh : Int) ≤ 1000 :=
  decide_eq_true_iff

section

variable {dflt : Nat} {cfg : ChannelConfig} {power : BitVec 32}

theorem idleFor_of_degenerate (h : power.toInt * (cfg.ppkwh : Int) ≤ 1000) :
    idleFor dflt cfg power = (dflt, true) :=
  if_pos h

theorem idleFor_of_no_numerator (h : 1000 < power.toInt * (cfg.ppkwh : Int))
    (hnum : 3600000000 ≤ power.toInt * (cfg.ppkwh : Int) * (cfg.activeMs : Int)) :
    idleFor dflt cfg power = (0, false) := by
  unfold idleFor watts
  dsimp only
  rw [if_neg (by omega), if_pos (by omega)]

theorem idleFor_of_quotient (h : 1000 < power.toInt * (cfg.ppkwh : Int))
    (hnum : power.toInt * (cfg.ppkwh : Int) * (cfg.activeMs : Int) < 3600000000) :
    idleFor dflt cfg power =
      (((3600000000 - power.toInt * (cfg.ppkwh : Int) * (cfg.activeMs : Int)) /
        (power.toInt * (cfg.ppkwh : Int) - 1000)).toNat, false) := by
  unfold idleFor watts
  dsimp only
  rw [if_neg (by omega), if_neg (by omega)]

end

/-- The floor of a quotient of positive integers, as a natural number, bracketed by its multiples of the
denominator. -/
theorem toNat_ediv_bounds {num den : Int} (hnum : 0 < num) (hden : 0 < den) :
    ((num / den).toNat : Int) * den ≤ num ∧ num < (((num / den).toNat : Int) + 1) * den ∧
      ((num / den).toNat : Int) ≤ num := by
  rw [Int.toNat_of_nonneg (Int.ediv_nonneg hnum.le hden.le)]
  exact ⟨Int.ediv_mul_le num hden.ne', Int.lt_ediv_add_one_mul_self num hden,
    Int.ediv_le_self den hnum.le⟩

/-- Settles O32: the three cases of R151, and in the third the numerator is below 3600000000 as `PK` and `A` are
positive. -/
theorem idleForIsTheExactFloor : Obligations.IdleForIsTheExactFloor := by
  rintro dflt cfg power pk rfl
  refine ⟨idleFor_of_degenerate, idleFor_of_no_numerator, fun h hnum =>
    ⟨_, idleFor_of_quotient h hnum, ?_⟩⟩
  obtain ⟨hfloor, hceil, hle⟩ := toNat_ediv_bounds (Int.sub_pos_of_lt hnum) (Int.sub_pos_of_lt h)
  refine ⟨hfloor, hceil, fun hA => ?_⟩
  have hpos : 0 < power.toInt * (cfg.ppkwh : Int) * (cfg.activeMs : Int) :=
    Int.mul_pos (by omega) (by omega)
  omega

/-- The range of `ACTIVE_MS` (00_scope.md R7). -/
theorem ChannelConfig.legal_activeMs {cfg : ChannelConfig} (h : cfg.legal = true) :
    1 ≤ cfg.activeMs ∧ cfg.activeMs ≤ 65535 := by
  simp only [ChannelConfig.legal, Bool.and_eq_true, decide_eq_true_eq] at h
  omega

/-- Every value of IdleFor is 0, a quotient below 3600000000, or the long default. -/
theorem idleFor_le_or_eq_default (dflt : Nat) {cfg : ChannelConfig} (power : BitVec 32)
    (hA : 1 ≤ cfg.activeMs) :
    (idleFor dflt cfg power).1 ≤ 3599999999 ∨ (idleFor dflt cfg power).1 = dflt := by
  obtain ⟨hdegenerate, hzero, hquotient⟩ := idleForIsTheExactFloor dflt cfg power _ rfl
  rcases le_or_gt (power.toInt * (cfg.ppkwh : Int)) 1000 with h | h
  · exact .inr (congrArg Prod.fst (hdegenerate h))
  · rcases le_or_gt 3600000000 (power.toInt * (cfg.ppkwh : Int) * (cfg.activeMs : Int)) with
      hnum | hnum
    · rw [hzero h hnum]
      exact .inl (Nat.zero_le _)
    · obtain ⟨v, hv, -, -, hlt⟩ := hquotient h hnum
      rw [hv]
      exact .inl (Nat.le_of_lt_succ (hlt hA))

/-- Settles O33: both kinds of value are below `2^32`. -/
theorem idleForStaysInRange : Obligations.IdleForStaysInRange := by
  intro dflt cfg power hl hdflt
  have hrange := idleFor_le_or_eq_default dflt power (ChannelConfig.legal_activeMs hl).1
  exact ⟨hrange, by rw [BitVec.toNat_ofNat, Nat.mod_eq_of_lt (by omega)]⟩

/-! ### What the two stages select (30_encoding.md R83, R84) -/

/-- The tick unit's choice (R156 to R159). -/
theorem tickOp_eq (ch : Nat) (e : Sampled) (c : Channel) :
    tickOp ch e c =
      if c.cfg.s0En = false then .tkDis ch c.pg.phase.code (c.expP e.now)
      else if elapsed e.now c.pg.phaseStart < c.pg.target.toNat then .tkWait ch c.pg.phase.code
      else if c.pg.phase = .active then .tkFall ch
      else .tkRise ch := by
  unfold tickOp tickRow Channel.expP
  cases c.pg.phase <;> simp [Phase.code]

theorem selected_tk {s : State} {ch : Nat} {c : Channel} (hc : s.chans[ch]? = some c) :
    s.selected .tick ch = some (
      if c.cfg.s0En = false then .tkDis ch c.pg.phase.code (c.expP s.now)
      else if elapsed s.now c.pg.phaseStart < c.pg.target.toNat then .tkWait ch c.pg.phase.code
      else if c.pg.phase = .active then .tkFall ch
      else .tkRise ch) := by
  rw [selected_tick hc]
  exact congrArg some (tickOp_eq ch (s.sampled ch) c)

/-- The retarget unit's choice for a reading (R152 to R155). -/
theorem retargetOp_reading (ch : Nat) {e : Sampled} (c : Channel) (hv : e.inp.rtValid = true) :
    retargetOp ch false e c =
      if e.inp.rtPower.toInt * (c.cfg.ppkwh : Int) ≤ 1000 then
        if c.pg.phase = .active then .rtgDga ch else .rtgDgi ch
      else if c.pg.phase = .active then .rtgA ch else .rtgI ch := by
  simp only [retargetOp_eq, hv, degenerate_iff]
  cases c.pg.phase <;> rfl

theorem selected_reading {s : State} {ch : Nat} {c : Channel} (hc : s.chans[ch]? = some c)
    (hr : s.inp.rst = false) (hv : (s.chanIn ch).rtValid = true) :
    s.selected .retarget ch = some (
      if (s.chanIn ch).rtPower.toInt * (c.cfg.ppkwh : Int) ≤ 1000 then
        if c.pg.phase = .active then .rtgDga ch else .rtgDgi ch
      else if c.pg.phase = .active then .rtgA ch else .rtgI ch) := by
  rw [selected_retarget hc, hr]
  exact congrArg some (retargetOp_reading ch c (e := s.sampled ch) hv)

/-! ### The operations, each by its effect (R152 to R160) -/

/-- Settles O21: both effects are none, and each operation is one branch of its unit's choice. -/
theorem pulseWaitsChangeNothing : Obligations.PulseWaitsChangeNothing := by
  intro s ch c hc
  refine ⟨fun _ _ => holdChannel_some hc, fun _ => holdChannel_some hc, fun hr hv => ?_,
    fun hn => ?_⟩
  · rw [selected_rtg hc hr, if_pos (by simp [hv])]
    exact ⟨_, _, rfl⟩
  · rw [selected_tk hc, if_neg (by simp [hn])]
    split_ifs <;> simp [*]

/-- Settles O34: RTG.I and RTG.A raise Retargeted, and are the choice for a reading above the limit. -/
theorem readingRetargets : Obligations.ReadingRetargets := by
  rintro s ch c v hc rfl
  refine ⟨exec_of_raising_effect (i := .rtgI ch) hc rfl,
    exec_of_raising_effect (i := .rtgA ch) hc rfl, fun hr hv => ?_⟩
  rw [selected_reading hc hr hv]
  refine ⟨fun hp => ?_, fun hp => ?_⟩ <;> simp [hp]

/-- Settles O35: RTG.DGI and RTG.DGA raise DegeneratePulseRate, and are the choice for every other reading. -/
theorem degenerateReadingSetsTheLongIdle : Obligations.DegenerateReadingSetsTheLongIdle := by
  intro s ch c hc
  refine ⟨exec_of_raising_effect (i := .rtgDgi ch) hc rfl,
    exec_of_raising_effect (i := .rtgDga ch) hc rfl, fun hr hv => ?_⟩
  rw [selected_reading hc hr hv]
  refine ⟨fun hp => ?_, fun hp => ?_, fun hP => ?_⟩
  · simp [hp]
  · simp [hp]
  · have hneg := Int.mul_nonpos_of_nonpos_of_nonneg hP (Int.natCast_nonneg c.cfg.ppkwh)
    omega

/-- Settles O36: the three effects, and each operation is one branch of the tick unit's choice. -/
theorem tickFlipsThePhase : Obligations.TickFlipsThePhase := by
  intro s ch c hc
  refine ⟨fun h x => exec_of_silent_effect (i := .tkDis ch h x) hc rfl,
    exec_of_silent_effect (i := .tkRise ch) hc rfl,
    exec_of_silent_effect (i := .tkFall ch) hc rfl, ?_⟩
  rw [selected_tk hc]
  refine ⟨?_, fun hn hp => ?_, fun hn hp => ?_⟩
  · split_ifs <;> simp [*]
  · simp [hn, hp]
  · simp [hn, hp]

/-! ### Who writes `phase` (R150) -/

theorem effect_phase_of_not_writesPhase {i : Instr} {e : Sampled} {c : Channel}
    {r : Channel × Option EventInfo} (hi : i.writesPhase = false) (h : effect i e c = .next r) :
    r.1.pg.phase = c.pg.phase := by
  cases i <;> cases h
  case pgReset | tkRise | tkFall => cases hi
  all_goals rfl

/-- Settles O43: another channel's phase is in the operation's frame, and its own is left by an operation that
does not write it. -/
theorem phaseChangesOnlyOnTicksAndReset : Obligations.PhaseChangesOnlyOnTicksAndReset := by
  intro i s t j d d' h hd hd' hne
  obtain ⟨-, -, -, -, -, -, hother⟩ := exec_sameOutside h
  have hj : j = i.channel := by
    by_contra hj
    rw [hother j hj, hd] at hd'
    exact hne (by rw [Option.some.inj hd'])
  obtain ⟨r, hr, -, hcr⟩ := exec_next_at hj.symm hd h
  obtain rfl : d' = committed r := Option.some.inj (hd'.symm.trans hcr)
  refine ⟨hj, Bool.eq_true_of_not_eq_false fun hi => hne ?_⟩
  rw [committed_pg, effect_phase_of_not_writesPhase hi hr]

end Sys2Proof.Machine

namespace Sys2Proof.Machine

/-! The pulse generator over time (41_pulse_generator.md): what its two stages make of its registers, a reading within
one step (R161, R162), and the pulse train of the cycles at every millisecond without a reading (R163, R168). -/

/-! ### What each stage makes of the registers -/

theorem Phase.eq_idle_of_ne_active {p : Phase} (h : p ≠ .active) : p = .idle := by
  cases p
  · rfl
  · exact absurd rfl h

/-- The registers with a new idle duration, in PG.Idle for the running phase too (R152 to R155). -/
def PgRegs.retargeted (p : PgRegs) (v : Nat) : PgRegs :=
  match p.phase with
  | .idle => { p with idleMs := BitVec.ofNat 32 v, target := BitVec.ofNat 32 v }
  | .active => { p with idleMs := BitVec.ofNat 32 v }

/-- The registers at the start of the other phase: TK.RISE out of PG.Idle, TK.FALL out of Active (R158, R159). -/
def PgRegs.flipped (p : PgRegs) (activeMs : Nat) (now : Time) : PgRegs :=
  match p.phase with
  | .idle =>
    { p with phase := .active, pulseOut := true, phaseStart := now
             target := BitVec.ofNat 32 activeMs }
  | .active => { p with phase := .idle, pulseOut := false, phaseStart := now, target := p.idleMs }

/-- The registers after the tick of an enabled channel (R157 to R159). -/
def PgRegs.ticked (p : PgRegs) (activeMs : Nat) (now : Time) : PgRegs :=
  if elapsed now p.phaseStart < p.target.toNat then p else p.flipped activeMs now

section

variable {p : PgRegs}

theorem PgRegs.retargeted_of_idle (hp : p.phase = .idle) (v : Nat) :
    p.retargeted v = { p with idleMs := BitVec.ofNat 32 v, target := BitVec.ofNat 32 v } := by
  simp only [PgRegs.retargeted, hp]

theorem PgRegs.retargeted_of_active (hp : p.phase = .active) (v : Nat) :
    p.retargeted v = { p with idleMs := BitVec.ofNat 32 v } := by
  simp only [PgRegs.retargeted, hp]

theorem PgRegs.flipped_of_idle (hp : p.phase = .idle) (activeMs : Nat) (now : Time) :
    p.flipped activeMs now =
      { phase := .active, phaseStart := now, target := BitVec.ofNat 32 activeMs, idleMs := p.idleMs
        pulseOut := true } := by
  simp only [PgRegs.flipped, hp]

theorem PgRegs.flipped_of_active (hp : p.phase = .active) (activeMs : Nat) (now : Time) :
    p.flipped activeMs now =
      { phase := .idle, phaseStart := now, target := p.idleMs, idleMs := p.idleMs
        pulseOut := false } := by
  simp only [PgRegs.flipped, hp]

theorem PgRegs.ticked_before_target {now : Time} (h : elapsed now p.phaseStart < p.target.toNat)
    (activeMs : Nat) : p.ticked activeMs now = p :=
  if_pos h

theorem PgRegs.ticked_from_target {now : Time} (h : p.target.toNat ≤ elapsed now p.phaseStart)
    (activeMs : Nat) : p.ticked activeMs now = p.flipped activeMs now :=
  if_neg (Nat.not_lt.2 h)

end

/-- A reading sets the duration its IdleFor gives, degenerate or not, and raises an event. -/
theorem retargetEffect_reading (ch : Nat) {e : Sampled} (c : Channel) (hv : e.inp.rtValid = true) :
    ∃ x, effect (retargetOp ch false e c) e c =
      .next ({ c with
        pg := c.pg.retargeted (idleFor e.idleDefaultMs c.cfg e.inp.rtPower).1 }, some x) := by
  rw [retargetOp_reading ch c hv]
  split_ifs with hdg hp hp
  · rw [PgRegs.retargeted_of_active hp, idleFor_of_degenerate hdg]
    exact ⟨_, rfl⟩
  · rw [PgRegs.retargeted_of_idle (Phase.eq_idle_of_ne_active hp), idleFor_of_degenerate hdg]
    exact ⟨_, rfl⟩
  · rw [PgRegs.retargeted_of_active hp]
    exact ⟨_, rfl⟩
  · rw [PgRegs.retargeted_of_idle (Phase.eq_idle_of_ne_active hp)]
    exact ⟨_, rfl⟩

theorem tickEffect_enabled (ch : Nat) (e : Sampled) {c : Channel} (hn : c.cfg.s0En = true) :
    effect (tickOp ch e c) e c =
      .next ({ c with pg := c.pg.ticked c.cfg.activeMs e.now }, none) := by
  rw [tickOp_eq, if_neg (by simp [hn]), PgRegs.ticked]
  split_ifs with hlt hp
  · rfl
  · rw [PgRegs.flipped_of_active hp]
    rfl
  · rw [PgRegs.flipped_of_idle (Phase.eq_idle_of_ne_active hp)]
    rfl

/-! ### A reading within one step (R161, R162, 42_channel.md R180) -/

/-- The stages of a channel's cycle with `rst = 0`, each by its operation's effect. -/
theorem channelCycle_stages {ch : Nat} {e : Sampled} {c : Channel} {r : Channel × List EventInfo}
    (h : channelCycle ch false e c = .next r) :
    ∃ x y z, effect (readerOp ch false e c) e c = .next x ∧
      effect (retargetOp ch false e (committed x)) e (committed x) = .next y ∧
      effect (tickOp ch e (committed y)) e (committed y) = .next z ∧ r.1 = committed z := by
  obtain ⟨_, h1, h⟩ := chain_eq_next.1 h
  obtain ⟨_, h2, h⟩ := chain_eq_next.1 h
  obtain ⟨_, h3, h⟩ := chain_eq_next.1 h
  cases h
  obtain ⟨x, hx, hx'⟩ := chain_eq_next.1 h1
  obtain ⟨y, hy, hy'⟩ := chain_eq_next.1 h2
  obtain ⟨z, hz, hz'⟩ := chain_eq_next.1 h3
  cases hx'
  cases hy'
  cases hz'
  exact ⟨x, y, z, hx, hy, hz, rfl⟩

/-- In the cycle of an enabled channel a reading retargets first and the tick sees what that leaves; the reader's
stage leaves the pulse generator. -/
theorem channelCycle_reading {ch : Nat} {e : Sampled} {c : Channel} {r : Channel × List EventInfo}
    (hn : c.cfg.s0En = true) (hv : e.inp.rtValid = true)
    (h : channelCycle ch false e c = .next r) :
    r.1.pg =
      (c.pg.retargeted (idleFor e.idleDefaultMs c.cfg e.inp.rtPower).1).ticked
        c.cfg.activeMs e.now := by
  obtain ⟨x, y, z, hx, hy, hz, hr⟩ := channelCycle_stages h
  have hcfg : (committed x).cfg = c.cfg := (committed_cfg x).trans (effect_cfg hx)
  have hpg : (committed x).pg = c.pg :=
    (committed_pg x).trans (effect_pg (stageOp_isReader .reader ch false e c) hx)
  generalize committed x = d at hy hcfg hpg
  obtain ⟨info, hy'⟩ := retargetEffect_reading ch d hv
  obtain rfl := Host.Outcome.next.inj (hy'.symm.trans hy)
  rw [tickEffect_enabled ch e (by simp [hcfg, hn])] at hz
  obtain rfl := Host.Outcome.next.inj hz
  simp [hr, hcfg, hpg]

theorem step_reading {s t : State} {ch : Nat} {c c' : Channel} (h : step s = .next t)
    (hc : s.chans[ch]? = some c) (hc' : t.chans[ch]? = some c') (hr : s.inp.rst = false)
    (hn : c.cfg.s0En = true) (hv : (s.chanIn ch).rtValid = true) :
    c'.pg =
      (c.pg.retargeted (idleFor s.idleDefaultMs c.cfg (s.chanIn ch).rtPower).1).ticked
        c.cfg.activeMs s.now := by
  obtain ⟨-, -, -, -, -, -, -, hcycles, -⟩ := step_next h
  obtain ⟨hlt, -⟩ := List.getElem?_eq_some_iff.1 hc
  obtain ⟨c₀, r, hc₀, hcycle, ht⟩ := hcycles ch hlt
  obtain rfl : c = c₀ := Option.some.inj (hc.symm.trans hc₀)
  obtain rfl : c' = r.1 := Option.some.inj (hc'.symm.trans ht)
  rw [hr] at hcycle
  exact channelCycle_reading (c := c.cleared) (e := s.sampled ch) hn hv hcycle

/-- Settles O37: the tick stage sees the new `target`, which is the duration itself, as IdleFor fits 32 bits. -/
theorem retargetInIdleTakesEffectAtOnce : Obligations.RetargetInIdleTakesEffectAtOnce := by
  rintro s t ch c c' v hl h hc hc' hr hn hp hv rfl
  obtain ⟨⟨-, -, -, hdflt⟩, hchans⟩ := (State.legal_iff s).1 hl
  obtain ⟨-, hfits⟩ := idleForStaysInRange s.idleDefaultMs c.cfg (s.chanIn ch).rtPower
    (hchans c (List.mem_of_getElem? hc)) hdflt
  rw [step_reading h hc hc' hr hn hv, PgRegs.retargeted_of_idle hp]
  refine ⟨fun hle => ?_, fun hlt => ?_⟩
  · refine (PgRegs.ticked_from_target ?_ _).trans (PgRegs.flipped_of_idle ?_ _ _)
    · exact hfits.trans_le hle
    · exact hp
  · refine PgRegs.ticked_before_target ?_ _
    exact hlt.trans_eq hfits.symm

/-- Settles O38: the tick stage sees the `target` the pulse had, and the new `idle_ms`. -/
theorem retargetInActiveNeverTruncates : Obligations.RetargetInActiveNeverTruncates := by
  rintro s t ch c c' v h hc hc' hr hn hp hv rfl
  rw [step_reading h hc hc' hr hn hv, PgRegs.retargeted_of_active hp]
  refine ⟨fun hlt => ?_, fun hle => ?_⟩
  · refine PgRegs.ticked_before_target ?_ _
    exact hlt
  · refine (PgRegs.ticked_from_target ?_ _).trans (PgRegs.flipped_of_active ?_ _ _)
    · exact hle
    · exact hp

/-! ### The pulse train (R163, R168) -/

/-- With one cycle at every millisecond from `s`, where channel `ch` is `c`, its pulse generator is `p` after `n` of
them. -/
def PulsesTo (ch : Nat) (s : State) (c : Channel) (n : Nat) (p : PgRegs) : Prop :=
  ∃ t, pulseRun ch n s = .next t ∧ t.chans[ch]? = some { c with pg := p } ∧
    t.now = s.now + BitVec.ofNat 32 n

theorem pulsesTo_zero {ch : Nat} {s : State} {c : Channel} (hc : s.chans[ch]? = some c) :
    PulsesTo ch s c 0 c.pg :=
  ⟨s, rfl, hc, (BitVec.add_zero s.now).symm⟩

/-- The time since a phase began, less than `2^32` ms ago (60_exceptions.md R210). -/
theorem elapsed_of_lt (start : Time) (n : Nat) {k : Nat} (hk : k < 4294967296) :
    elapsed (start + BitVec.ofNat 32 (n + k)) (start + BitVec.ofNat 32 n) = k := by
  rw [elapsed, BitVec.ofNat_add, ← BitVec.add_assoc, add_sub_cancel_left, BitVec.toNat_ofNat,
    Nat.mod_eq_of_lt hk]

section

variable {ch : Nat} {s : State} {c : Channel} {n : Nat} {p : PgRegs} (hn : c.cfg.s0En = true)
  (h : PulsesTo ch s c n p)

include hn h

/-- The next millisecond without a reading: the retarget stage holds, and the tick stage ticks. -/
theorem PulsesTo.succ :
    PulsesTo ch s c (n + 1) (p.ticked c.cfg.activeMs (s.now + BitVec.ofNat 32 (n + 1))) := by
  obtain ⟨t, hrun, hc, hnow⟩ := h
  have hc₁ : t.nextMs.chans[ch]? = some { c with pg := p } := hc
  have hnow₁ : t.nextMs.now = s.now + BitVec.ofNat 32 (n + 1) := by
    rw [State.now, State.nextMs, hnow, BitVec.ofNat_add, BitVec.add_assoc]
    rfl
  have hretarget : runStage .retarget ch t.nextMs = .next t.nextMs := by
    obtain ⟨hnone, -, hselected, -⟩ := pulseWaitsChangeNothing t.nextMs ch _ hc₁
    obtain ⟨d, x, hsel⟩ := hselected rfl rfl
    rw [runStage, hsel]
    exact hnone d x
  refine ⟨t.nextMs.setChannel ch _, ?_, chans_set_same hc₁ _, hnow₁⟩
  rw [pulseRun, hrun, chain_next, hretarget, chain_next, runStage_eq .tick hc₁, stageOp,
    tickEffect_enabled ch _ (c := { c with pg := p }) hn, State.sampled_now, hnow₁]
  rfl

variable (hstart : p.phaseStart = s.now + BitVec.ofNat 32 n)

include hstart

/-- A phase that has just begun goes on unchanged until it has lasted its target, and for its first cycle
whatever its target is. -/
theorem PulsesTo.hold {k : Nat} (hk : k < max p.target.toNat 1) : PulsesTo ch s c (n + k) p := by
  induction k with
  | zero => exact h
  | succ k ih =>
    have hnext := (ih (by omega)).succ hn
    rw [PgRegs.ticked_before_target] at hnext
    · exact hnext
    · rw [hstart, Nat.add_assoc, elapsed_of_lt _ _ (by omega)]
      omega

/-- The other phase begins once it has lasted its target, and at the earliest in the cycle after its first. -/
theorem PulsesTo.flip {m : Nat} (hm : m = max p.target.toNat 1) :
    PulsesTo ch s c (n + m) (p.flipped c.cfg.activeMs (s.now + BitVec.ofNat 32 (n + m))) := by
  obtain ⟨k, rfl⟩ : ∃ k, m = k + 1 := ⟨m - 1, by omega⟩
  have hnext := (h.hold hn hstart (k := k) (by omega)).succ hn
  rw [PgRegs.ticked_from_target] at hnext
  · exact hnext
  · rw [hstart, Nat.add_assoc, elapsed_of_lt _ _ (by omega)]
    omega

end

/-- Settles O40: the pulse, whose target is `A`, goes over into the idle phase, whose target is `v`, and that into
the next pulse. -/
theorem pulseTrainTiming : Obligations.PulseTrainTiming := by
  intro s ch c hc hl hn hphase hout hstart htarget n hle
  obtain ⟨hA1, hA⟩ := ChannelConfig.legal_activeMs hl
  have hlasts : c.cfg.activeMs = max c.pg.target.toNat 1 := by
    rw [htarget, BitVec.toNat_ofNat, Nat.mod_eq_of_lt (by omega), Nat.max_eq_left hA1]
  have hstart₀ : c.pg.phaseStart = s.now + BitVec.ofNat 32 0 :=
    hstart.trans (BitVec.add_zero s.now).symm
  rcases Nat.lt_or_ge n c.cfg.activeMs with hpulse | hpulse
  · have hactive := (pulsesTo_zero hc).hold hn hstart₀ (hlasts ▸ hpulse)
    rw [Nat.zero_add] at hactive
    obtain ⟨t, hrun, hct, -⟩ := hactive
    exact ⟨t, _, hrun, hct, fun _ => ⟨hphase, hout⟩, by omega, by omega⟩
  · obtain ⟨k, rfl⟩ := Nat.exists_eq_add_of_le hpulse
    have hfall := (pulsesTo_zero hc).flip hn hstart₀ hlasts
    rw [Nat.zero_add, PgRegs.flipped_of_active hphase] at hfall
    rcases Nat.lt_or_eq_of_le (Nat.le_of_add_le_add_left hle) with hidle | hidle
    · obtain ⟨t, hrun, hct, -⟩ := hfall.hold hn rfl hidle
      exact ⟨t, _, hrun, hct, by omega, fun _ _ => ⟨rfl, rfl⟩, by omega⟩
    · have hrise := hfall.flip hn rfl hidle
      rw [PgRegs.flipped_of_idle rfl] at hrise
      obtain ⟨t, hrun, hct, -⟩ := hrise
      exact ⟨t, _, hrun, hct, by omega, by omega, fun _ => by simp only [hphase, hout, htarget]⟩

/-- Settles O41: the idle phase of the reset lasts its target, `IDLE_DEFAULT_MS`, and the pulse begins. -/
theorem startupStaysLow : Obligations.StartupStaysLow := by
  intro s ch c hc hl hn hpg n hle
  obtain ⟨⟨-, -, hdflt1, hdflt⟩, -⟩ := (State.legal_iff s).1 hl
  have hphase : c.pg.phase = .idle := by rw [hpg]
  have hlasts : s.idleDefaultMs = max c.pg.target.toNat 1 := by
    rw [hpg, BitVec.toNat_ofNat, Nat.mod_eq_of_lt (by omega), Nat.max_eq_left hdflt1]
  have hstart : c.pg.phaseStart = s.now + BitVec.ofNat 32 0 := by
    rw [hpg]
    exact (BitVec.add_zero s.now).symm
  rcases Nat.lt_or_eq_of_le hle with hlow | rfl
  · have hidle := (pulsesTo_zero hc).hold hn hstart (hlasts ▸ hlow)
    rw [Nat.zero_add] at hidle
    obtain ⟨t, hrun, hct, -⟩ := hidle
    exact ⟨t, _, hrun, hct, by simp [hpg, hlow.ne], by simp [hphase, hlow.ne]⟩
  · have hrise := (pulsesTo_zero hc).flip hn hstart hlasts
    rw [Nat.zero_add, PgRegs.flipped_of_idle hphase] at hrise
    obtain ⟨t, hrun, hct, -⟩ := hrise
    exact ⟨t, _, hrun, hct, by simp, by simp⟩

end Sys2Proof.Machine

namespace Sys2Proof.Machine

/-! The channel over a step (42_channel.md): its stages run the operations its selectors decode to (R180), what it
becomes and what it records are its own cycle's (R181), and a disabled pulse generator stays low (R187). -/

/-! ### The stages by their selectors (R180) -/

theorem runStage_reader {s : State} {ch : Nat} {c : Channel} (hc : s.chans[ch]? = some c) :
    runStage .reader ch s =
      exec (decode ch (.rsel (c.rsel ch s.inp.rst s.now (s.chanIn ch)))) s := by
  simp only [runStage, State.selected, hc]

theorem runStage_retarget {s : State} {ch : Nat} {c : Channel} (hc : s.chans[ch]? = some c) :
    runStage .retarget ch s = exec (decode ch (.gsel (c.gsel s.inp.rst (s.chanIn ch)))) s := by
  simp only [runStage, State.selected, hc]

theorem runStage_tick {s : State} {ch : Nat} {c : Channel} (hc : s.chans[ch]? = some c) :
    runStage .tick ch s = exec (decode ch (.tsel (c.tsel s.now))) s := by
  simp only [runStage, State.selected, hc]

theorem chain_of_not_next {α : Type} {x : Result α} (k : α → Result α) (h : ∀ a, x ≠ .next a) :
    chain x k = x := by
  cases x with
  | next a => exact absurd rfl (h a)
  | fault f => rfl
  | refused r => rfl

theorem exec_inp {i : Instr} {s t : State} (h : exec i s = .next t) : t.inp = s.inp := by
  obtain ⟨-, hinp, -⟩ := exec_frame h
  exact hinp

/-- Settles O4: each stage runs the operation its selector decodes to, and no operation changes the inputs that the
later selectors are assembled from. -/
theorem stepRunsTheDecodedOperations : Obligations.StepRunsTheDecodedOperations := by
  refine ⟨fun _ => step_legal, fun _ => rfl, fun _ _ _ => rfl, ?_, ?_⟩
  · intro s ch c hc hstop
    rw [← runStage_reader hc] at hstop ⊢
    exact chain_of_not_next _ hstop
  · intro s s1 s2 ch c c1 c2 hc hc1 hc2 hreader hretarget
    have hinp1 := exec_inp hreader
    have hinp2 := (exec_inp hretarget).trans hinp1
    have hin1 : s1.chanIn ch = s.chanIn ch := by rw [State.chanIn, hinp1, State.chanIn]
    have hnow2 : s2.now = s.now := by rw [State.now, hinp2, State.now]
    rw [← hinp1, ← hin1, ← runStage_retarget hc1] at hretarget
    rw [runChannel, runStage_reader hc, hreader, chain_next, hretarget, chain_next,
      runStage_tick hc2, hinp2, hnow2]

/-! ### The records of one channel (60_exceptions.md R207) -/

theorem newRecords_ch {s : State} {ch : Nat} {r : EventRecord} (h : r ∈ s.newRecords ch) :
    r.ch = ch := by
  unfold State.newRecords at h
  split at h
  · cases h
  · split at h
    · obtain ⟨x, -, rfl⟩ := List.mem_map.1 h
      rfl
    · cases h

theorem filter_newRecords_same (s : State) (ch : Nat) :
    ((s.newRecords ch).filter fun r => r.ch == ch) = s.newRecords ch :=
  List.filter_eq_self.2 fun _ hr => beq_iff_eq.2 (newRecords_ch hr)

/-- Among the records of other channels there is none of `ch`. -/
theorem filter_newRecords_other {s : State} {ch : Nat} {chs : List Nat} (h : ch ∉ chs) :
    ((chs.flatMap s.newRecords).filter fun r => r.ch == ch) = [] := by
  refine List.filter_eq_nil_iff.2 fun r hr heq => h ?_
  obtain ⟨j, hj, hr⟩ := List.mem_flatMap.1 hr
  rwa [← beq_iff_eq.1 heq, newRecords_ch hr]

/-- Among the records of distinct channels those of `ch` are its own. -/
theorem filter_flatMap_newRecords {s : State} {ch : Nat} {chs : List Nat} (hn : chs.Nodup)
    (h : ch ∈ chs) :
    ((chs.flatMap s.newRecords).filter fun r => r.ch == ch) = s.newRecords ch := by
  obtain ⟨pre, post, rfl⟩ := List.append_of_mem h
  obtain ⟨-, hpost, hdisj⟩ := List.nodup_append.1 hn
  have hnotPre : ch ∉ pre := fun hp => hdisj ch hp ch List.mem_cons_self rfl
  have hnotPost : ch ∉ post := (List.nodup_cons.1 hpost).1
  rw [List.flatMap_append, List.flatMap_cons, List.filter_append, List.filter_append,
    filter_newRecords_other hnotPre, filter_newRecords_same, filter_newRecords_other hnotPost,
    List.nil_append, List.append_nil]

/-! ### A channel over a step (R181) -/

/-- What a step makes of a channel, and the records it appends for it, are those of the channel's own cycle. -/
theorem step_channel {s t : State} {ch : Nat} {c : Channel} (h : step s = .next t)
    (hc : s.chans[ch]? = some c) :
    ∃ r, channelCycle ch s.inp.rst (s.sampled ch) c.cleared = .next r ∧
      t.chans[ch]? = some r.1 ∧
      ((t.history.drop s.history.length).filter fun x => x.ch == ch) =
        r.2.map fun e => { now := s.now, ch := ch, chId := r.1.chId, info := e } := by
  obtain ⟨-, -, -, -, -, -, -, hcycles, hhist⟩ := step_next h
  obtain ⟨hlt, -⟩ := List.getElem?_eq_some_iff.1 hc
  obtain ⟨c₀, r, hc₀, hcycle, ht⟩ := hcycles ch hlt
  obtain rfl : c = c₀ := Option.some.inj (hc.symm.trans hc₀)
  refine ⟨r, hcycle, ht, ?_⟩
  have hcleared : s.clearStrobes.chans[ch]? = some c.cleared := by
    rw [clearStrobes_get, hc, Option.map_some]
  have hown : channelCycle ch s.clearStrobes.inp.rst (s.clearStrobes.sampled ch) c.cleared =
    .next r := hcycle
  have hmem : ch ∈ List.range s.numCh := List.mem_range.2 hlt
  rw [hhist, List.drop_left, filter_flatMap_newRecords List.nodup_range hmem]
  simp only [State.newRecords, hcleared, hown, State.clearStrobes_now]

/-- Settles O7: the two states offer the channel the same cycle, and a step makes of it what its cycle does. -/
theorem channelsAreIndependent : Obligations.ChannelsAreIndependent := by
  intro s s' t t' ch hchan hin hrst hnow hdflt hlt h h'
  have hc := List.getElem?_eq_getElem (show ch < s.chans.length from hlt)
  have hnow' : s'.now = s.now := hnow
  have hsampled : s'.sampled ch = s.sampled ch := by simp only [State.sampled, hdflt, hnow', hin]
  obtain ⟨r, hr, ht, hrec⟩ := step_channel h hc
  obtain ⟨r', hr', ht', hrec'⟩ := step_channel h' (hchan.trans hc)
  rw [hrst, hsampled, hr] at hr'
  obtain rfl : r = r' := Host.Outcome.next.inj hr'
  exact ⟨ht'.trans ht.symm, by rw [hrec', hrec, hnow']⟩

/-! ### The disabled pulse generator (R187, 41_pulse_generator.md R156) -/

/-- One of the two strobes of a reading's events is asserted (R152 to R155). -/
def Strobes.reading (b : Strobes) : Bool := b.retarget || b.degenerate

/-- A frame-reader operation raises no event of a reading. -/
theorem readerEffect_strobes_reading {i : Instr} {e : Sampled} {c : Channel}
    {r : Channel × Option EventInfo} (hi : i.isReader = true) (h : effect i e c = .next r) :
    (committed r).strobes.reading = c.strobes.reading := by
  cases i <;> cases h
  case pgReset | rtgNone | rtgI | rtgA | rtgDgi | rtgDga | tkDis | tkWait | tkRise | tkFall =>
    cases hi
  all_goals rfl

/-- The retarget stage raises an event exactly for a reading. -/
theorem retargetEffect_strobes_reading {ch : Nat} {e : Sampled} {c : Channel}
    {r : Channel × Option EventInfo} (h : effect (retargetOp ch false e c) e c = .next r) :
    (committed r).strobes.reading = (e.inp.rtValid || c.strobes.reading) := by
  cases hv : e.inp.rtValid with
  | false =>
    rw [retargetOp_eq, hv] at h
    cases h
    rfl
  | true =>
    rw [retargetOp_reading ch c hv] at h
    split_ifs at h
    all_goals
      cases h
      simp [committed, Strobes.assert, Strobes.reading]

theorem retargetOp_writesPhase (ch : Nat) (e : Sampled) (c : Channel) :
    (retargetOp ch false e c).writesPhase = false := by
  rw [retargetOp_eq]
  split_ifs <;> rfl

theorem effect_phaseStart_of_not_writesPhase {i : Instr} {e : Sampled} {c : Channel}
    {r : Channel × Option EventInfo} (hi : i.writesPhase = false) (h : effect i e c = .next r) :
    r.1.pg.phaseStart = c.pg.phaseStart := by
  cases i <;> cases h
  case pgReset | tkRise | tkFall => cases hi
  all_goals rfl

theorem tickEffect_disabled (ch : Nat) (e : Sampled) {c : Channel} (hn : c.cfg.s0En = false) :
    effect (tickOp ch e c) e c = .next ({ c with pg := { c.pg with pulseOut := false } }, none) := by
  rw [tickOp_eq, if_pos hn]
  rfl

/-- The cycle of a disabled channel: no stage accounts for the phase, the tick stage forces the output low, and
the retarget stage alone raises an event of a reading. -/
theorem channelCycle_disabled {ch : Nat} {e : Sampled} {c : Channel} {r : Channel × List EventInfo}
    (hn : c.cfg.s0En = false) (h : channelCycle ch false e c = .next r) :
    r.1.pg.pulseOut = false ∧ r.1.pg.phase = c.pg.phase ∧ r.1.pg.phaseStart = c.pg.phaseStart ∧
      r.1.strobes.reading = (e.inp.rtValid || c.strobes.reading) := by
  obtain ⟨x, y, z, hx, hy, hz, hr⟩ := channelCycle_stages h
  have hreader := stageOp_isReader .reader ch false e c
  have hpg : (committed x).pg = c.pg := (committed_pg x).trans (effect_pg hreader hx)
  have hnone := retargetOp_writesPhase ch e (committed x)
  have hcfg : (committed y).cfg = c.cfg := by
    rw [committed_cfg, effect_cfg hy, committed_cfg, effect_cfg hx]
  rw [tickEffect_disabled ch e (by rw [hcfg, hn])] at hz
  obtain rfl := Host.Outcome.next.inj hz
  have hphase : (committed y).pg.phase = c.pg.phase := by
    rw [committed_pg, effect_phase_of_not_writesPhase hnone hy, hpg]
  have hstart : (committed y).pg.phaseStart = c.pg.phaseStart := by
    rw [committed_pg, effect_phaseStart_of_not_writesPhase hnone hy, hpg]
  have hstrobes : (committed y).strobes.reading = (e.inp.rtValid || c.strobes.reading) := by
    rw [retargetEffect_strobes_reading hy, readerEffect_strobes_reading hreader hx]
  rw [hr]
  exact ⟨rfl, hphase, hstart, hstrobes⟩

/-- Settles O39: the channel's cycle starts with its strobes cleared, so that the strobe of a reading's event is
this cycle's. -/
theorem disabledChannelNeverPulses : Obligations.DisabledChannelNeverPulses := by
  intro s t ch c c' h hc hc' hr hn
  obtain ⟨r, hcycle, ht, -⟩ := step_channel h hc
  obtain rfl : c' = r.1 := Option.some.inj (hc'.symm.trans ht)
  rw [hr] at hcycle
  obtain ⟨hout, hphase, hstart, hstrobes⟩ :=
    channelCycle_disabled (c := c.cleared) (e := s.sampled ch) hn hcycle
  refine ⟨hout, hphase, hstart, ?_⟩
  have hreading : r.1.strobes.reading = (s.chanIn ch).rtValid :=
    hstrobes.trans (Bool.or_false _)
  rw [← hreading, Strobes.reading, Bool.or_eq_true]

end Sys2Proof.Machine

namespace Sys2Proof.Machine

/-! The events (60_exceptions.md): which operations raise one and of which code, what a channel's cycle records, and
the strobes that show it. -/

/-! ### The event of an operation (R201) -/

theorem effect_isSome_event {i : Instr} {e : Sampled} {c : Channel} {r : Channel × Option EventInfo}
    (h : effect i e c = .next r) : r.2.isSome = i.raises := by
  cases i <;> cases h <;> rfl

/-- An effect leaves the strobes; committing it asserts one. -/
theorem effect_strobes {i : Instr} {e : Sampled} {c : Channel} {r : Channel × Option EventInfo}
    (h : effect i e c = .next r) : r.1.strobes = c.strobes := by
  cases i <;> cases h <;> rfl

/-- A frame-reader operation that raises an event changes only reader registers, and the event is one of the
reader's. -/
theorem readerEffect_event {i : Instr} {e : Sampled} {c c' : Channel} {x : EventInfo}
    (hi : i.isReader = true) (h : effect i e c = .next (c', some x)) :
    c' = { c with fr := c'.fr } ∧ (x.code = 1 ∨ x.code = 2 ∨ x.code = 3) := by
  cases i <;> cases h
  case cpDlv => exact ⟨rfl, .inl rfl⟩
  case asTmo | rbTmo | rtTmo => exact ⟨rfl, .inr (.inl rfl)⟩
  case rbOvf => exact ⟨rfl, .inr (.inr rfl)⟩
  case rtgI | rtgA | rtgDgi | rtgDga => cases hi

theorem pulseEffect_event_code {i : Instr} {e : Sampled} {c c' : Channel} {x : EventInfo}
    (hi : i.isReader = false) (h : effect i e c = .next (c', some x)) :
    x.code = 4 ∨ x.code = 5 := by
  cases i <;> cases h
  case rtgI | rtgA => exact .inl rfl
  case rtgDgi | rtgDga => exact .inr rfl
  case asTmo | rbTmo | rtTmo | rbOvf | cpDlv => cases hi

/-- Settles O51: an operation that raises has an event, and its effect changes reader registers only. -/
theorem frameOfReaderEvents : Obligations.FrameOfReaderEvents := by
  intro i s t ch c hi hc hraises hreader h
  obtain ⟨⟨c', event⟩, hr, ht, hcr⟩ := exec_next_at hi hc h
  obtain ⟨x, rfl⟩ := Option.isSome_iff_exists.1 ((effect_isSome_event hr).trans hraises)
  obtain ⟨hframe, -⟩ := readerEffect_event hreader hr
  rw [hframe] at ht hcr
  have hbytes : s.SameBytes t ch none := by
    rw [ht]
    exact commit_sameBytes hc fun _ _ => rfl
  exact ⟨_, x, hcr, hi ▸ exec_sameOutside h, hbytes, by rw [ht]; rfl, rfl⟩

/-! ### The events of a channel's cycle (R207, 40_frame_reader.md R132) -/

theorem tickOp_raises (ch : Nat) (e : Sampled) (c : Channel) : (tickOp ch e c).raises = false := by
  rw [tickOp_eq]
  split_ifs <;> rfl

/-- A channel's cycle records what its reader's and its retarget operation raised; the tick adds neither a record nor
a strobe, and under reset it is not run. -/
theorem channelCycle_events {ch : Nat} {rst : Bool} {e : Sampled} {c : Channel}
    {r : Channel × List EventInfo} (h : channelCycle ch rst e c = .next r) :
    ∃ x y, effect (readerOp ch rst e c) e c = .next x ∧
      effect (retargetOp ch rst e (committed x)) e (committed x) = .next y ∧
      r.2 = raised x ++ raised y ∧ r.1.strobes = (committed y).strobes := by
  obtain ⟨_, h1, h⟩ := chain_eq_next.1 h
  obtain ⟨_, h2, h⟩ := chain_eq_next.1 h
  obtain ⟨x, hx, hx'⟩ := chain_eq_next.1 h1
  obtain ⟨y, hy, hy'⟩ := chain_eq_next.1 h2
  cases hx'
  cases hy'
  refine ⟨x, y, hx, hy, ?_⟩
  split at h
  · cases h
    exact ⟨rfl, rfl⟩
  · obtain ⟨_, h3, h⟩ := chain_eq_next.1 h
    obtain ⟨⟨d, event⟩, hz, hz'⟩ := chain_eq_next.1 h3
    cases hz'
    cases h
    have hsilent : event.isSome = false := (effect_isSome_event hz).trans (tickOp_raises ..)
    obtain rfl : event = none := by simpa using hsilent
    exact ⟨List.append_nil _, effect_strobes hz⟩

theorem newRecords_eq {s : State} {ch : Nat} {c : Channel} {r : Channel × List EventInfo}
    (hc : s.chans[ch]? = some c) (h : channelCycle ch s.inp.rst (s.sampled ch) c = .next r) :
    s.newRecords ch =
      r.2.map fun x => { now := s.now, ch := ch, chId := r.1.chId, info := x } := by
  simp only [State.newRecords, hc, h]

/-- Settles O46: a channel's records are those of its cycle, the reader's event and then the retarget's. -/
theorem eventsOfAStep : Obligations.EventsOfAStep := by
  intro s t h
  obtain ⟨-, -, -, -, -, -, -, -, hhist⟩ := step_next h
  refine ⟨s.clearStrobes.newRecords, hhist, fun ch c hc => ?_⟩
  obtain ⟨r, hcycle, -, -⟩ := step_channel h hc
  obtain ⟨⟨d, x⟩, ⟨d', y⟩, hx, hy, hevents, -⟩ := channelCycle_events hcycle
  have hcleared : s.clearStrobes.chans[ch]? = some c.cleared := by
    rw [clearStrobes_get, hc, Option.map_some]
  have hcfg : r.1.cfg = c.cleared.cfg := channelCycle_cfg hcycle
  rw [newRecords_eq hcleared hcycle, hevents, chId_eq_of_cfg (c := c) hcfg]
  refine ⟨fun u hu => ?_, _, _, List.map_append, ?_, ?_, fun u hu => ?_, fun u hu => ?_⟩
  · obtain ⟨v, -, rfl⟩ := List.mem_map.1 hu
    exact ⟨rfl, rfl, rfl⟩
  · cases x <;> simp [raised]
  · cases y <;> simp [raised]
  · obtain ⟨v, hv, rfl⟩ := List.mem_map.1 hu
    obtain rfl : x = some v := Option.mem_toList.1 hv
    exact (readerEffect_event (stageOp_isReader .reader ..) hx).2
  · obtain ⟨v, hv, rfl⟩ := List.mem_map.1 hu
    obtain rfl : y = some v := Option.mem_toList.1 hv
    exact pulseEffect_event_code (stageOp_isReader .retarget ..) hy

/-! ### The strobes (R200, 10_state.md R36) -/

/-- The strobe of an event code, as State holds it. -/
def Strobes.shows (b : Strobes) (code : BitVec 3) : Bool :=
  if code = 1 then b.frame
  else if code = 2 then b.timeout
  else if code = 3 then b.overflow
  else if code = 4 then b.retarget
  else if code = 5 then b.degenerate
  else false

theorem Strobes.shows_none (code : BitVec 3) : Strobes.none.shows code = false := by
  simp [Strobes.shows, Strobes.none]

/-- Asserting an event's strobe sets the strobe of its code and no other. -/
theorem Strobes.shows_assert (x : EventInfo) (b : Strobes) (code : BitVec 3) :
    (b.assert x).shows code = true ↔ b.shows code = true ∨ x.code = code := by
  rw [eq_comm (b := code)]
  by_cases h : code = x.code
  · subst h
    cases x <;> simp [Strobes.shows, Strobes.assert, EventInfo.code]
  · rw [or_iff_left h]
    cases x <;> simp only [EventInfo.code] at h <;>
      simp only [Strobes.shows, Strobes.assert, if_neg h]

/-- An operation asserts the strobe of its event and leaves the others. -/
theorem committed_shows {i : Instr} {e : Sampled} {c : Channel} {r : Channel × Option EventInfo}
    (h : effect i e c = .next r) (code : BitVec 3) :
    (committed r).strobes.shows code = true ↔
      c.strobes.shows code = true ∨ ∃ x ∈ raised r, x.code = code := by
  rw [← effect_strobes h]
  obtain ⟨d, _ | x⟩ := r
  · simp [committed, raised]
  · simp [committed, raised, Strobes.shows_assert]

/-- After a channel's cycle a strobe is what it was, or asserted by an event the cycle records. -/
theorem channelCycle_shows {ch : Nat} {rst : Bool} {e : Sampled} {c : Channel}
    {r : Channel × List EventInfo} (h : channelCycle ch rst e c = .next r) (code : BitVec 3) :
    r.1.strobes.shows code = true ↔
      c.strobes.shows code = true ∨ ∃ x ∈ r.2, x.code = code := by
  obtain ⟨x, y, hx, hy, hevents, hstrobes⟩ := channelCycle_events h
  rw [hstrobes, hevents, committed_shows hy, committed_shows hx]
  simp only [List.mem_append, or_and_right, exists_or, or_assoc]

/-- A step clears the strobes first, so that after it each shows the records of this step alone. -/
theorem step_shows {s t : State} {ch : Nat} {c' : Channel} (h : step s = .next t)
    (hc' : t.chans[ch]? = some c') (code : BitVec 3) :
    c'.strobes.shows code = true ↔
      ∃ r ∈ t.history.drop s.history.length, r.ch = ch ∧ r.info.code = code := by
  obtain ⟨-, -, -, -, -, -, hlen, -, -⟩ := step_next h
  obtain ⟨hlt, -⟩ := List.getElem?_eq_some_iff.1 hc'
  obtain ⟨r, hcycle, ht, hrec⟩ := step_channel h (List.getElem?_eq_getElem (hlen ▸ hlt))
  obtain rfl : c' = r.1 := Option.some.inj (hc'.symm.trans ht)
  have hmem : ∀ x, (x ∈ t.history.drop s.history.length ∧ x.ch = ch) ↔
      ∃ u ∈ r.2, EventRecord.mk s.now ch r.1.chId u = x := fun x => by
    rw [← List.mem_map, ← hrec, List.mem_filter, beq_iff_eq]
  rw [channelCycle_shows hcycle, Channel.cleared, Strobes.shows_none]
  simp [← and_assoc, hmem]

/-- Settles O47: each of the five strobes is that of its event code. -/
theorem strobeShowsTheEvent : Obligations.StrobeShowsTheEvent := by
  intro s t ch c' h hc'
  have hshows := step_shows h hc'
  exact ⟨hshows 1, hshows 2, hshows 3, hshows 4, hshows 5⟩

end Sys2Proof.Machine

namespace Sys2Proof.Machine

/-! Reset (70_reset_and_hazards.md) and what no step or pulse operation changes: the configuration (R237), the two
reset operations (R230, R231), a whole reset cycle (R235), and the frame of the pulse generator's operations. -/

/-! ### The configuration (R237) -/

/-- A step leaves each channel where it was, with its configuration. -/
theorem step_cfg_getElem? {s t : State} (h : step s = .next t) (j : Nat) :
    t.chans[j]?.map (fun c => c.cfg) = s.chans[j]?.map fun c => c.cfg := by
  obtain ⟨-, -, -, -, -, -, hlen, -, -⟩ := step_next h
  cases hc : s.chans[j]? with
  | none => rw [List.getElem?_eq_none (hlen ▸ List.getElem?_eq_none_iff.1 hc)]
  | some c =>
    obtain ⟨r, hcycle, ht, -⟩ := step_channel h hc
    rw [ht, Option.map_some, channelCycle_cfg hcycle]
    rfl

/-- Settles O6: no channel's cycle writes its configuration, and a step is the channels' cycles. -/
theorem configurationNeverChanges : Obligations.ConfigurationNeverChanges := by
  intro s t h
  obtain ⟨-, hidle, -⟩ := step_next h
  refine ⟨hidle, List.ext_getElem? fun j => ?_⟩
  rw [List.getElem?_map, List.getElem?_map, step_cfg_getElem? h]

/-! ### The two reset operations (R230, R231) -/

/-- Settles O9: the effect of RD.RESET is ToAwait, the reader's choice under reset in every state; the handshake and
the frame port are gated by `rst`. -/
theorem rdResetResult : Obligations.RdResetResult := by
  intro s ch c hc
  refine ⟨fun st v k e p q => exec_of_silent_effect (i := .rdReset ch st v k e p q) hc rfl,
    fun hr => ?_, rfl, rfl, Bool.and_false _, rfl⟩
  rw [selected_reader hc, hr]
  exact ⟨_, _, _, _, _, _, rfl⟩

theorem runStage_inp {g : Stage} {s t : State} {ch : Nat} (h : runStage g ch s = .next t) :
    t.inp = s.inp := by
  obtain ⟨c, r, -, -, rfl⟩ := runStage_next h
  exact s.commit_inp ch r

/-- A continuation that only answers what it is given changes no outcome. -/
theorem chain_eq_self {α : Type} {x : Result α} {k : α → Result α}
    (h : ∀ a, x = .next a → k a = .next a) : chain x k = x := by
  cases x with
  | next a => exact h a rfl
  | fault f => rfl
  | refused r => rfl

/-- Under reset a channel's cycle ends with its retarget stage (30_encoding.md R82). -/
theorem runChannel_of_rst {s s1 : State} {ch : Nat} (hr : s.inp.rst = true)
    (h1 : runStage .reader ch s = .next s1) : runChannel ch s = runStage .retarget ch s1 := by
  rw [runChannel, h1, chain_next]
  refine chain_eq_self fun s2 h2 => ?_
  rw [runStage_inp h2, runStage_inp h1, if_pos hr]

/-- Settles O10: the effect of PG.RESET, the retarget unit's choice under reset whatever the reading, with which the
channel's cycle ends. -/
theorem pgResetResult : Obligations.PgResetResult := by
  intro s ch c hc
  refine ⟨fun g d h => exec_of_silent_effect (i := .pgReset ch g d h) hc rfl, fun hr => ?_,
    fun hr _ => runChannel_of_rst hr⟩
  rw [selected_retarget hc, hr]
  exact ⟨_, _, _, rfl⟩

/-! ### A reset cycle (R235, R232) -/

/-- No channel records an event under reset. -/
theorem newRecords_of_rst {s : State} (hr : s.inp.rst = true) (ch : Nat) :
    s.newRecords ch = [] := by
  cases hc : s.chans[ch]? with
  | none => rw [State.newRecords, hc]
  | some c => exact newRecords_eq hc (hr ▸ channelCycle_reset ch (s.sampled ch) c)

/-- Settles O11: a reset cycle answers from every state code, and each channel's part of it is the reset of its
registers, with its strobes cleared. -/
theorem resetCycleFromAnyState : Obligations.ResetCycleFromAnyState := by
  intro s hl hr
  obtain ⟨t, ht⟩ := step_entered hl (.inl hr)
  obtain ⟨-, -, -, -, -, hwas, hlen, -, hhist⟩ := step_next ht
  refine ⟨t, ht, ?_, hlen, ?_, fun ch c hc => ?_⟩
  · have hnone : s.clearStrobes.newRecords = fun _ => [] := funext (newRecords_of_rst hr)
    rw [hhist, hnone, List.flatMap_eq_nil_iff.2 fun _ _ => rfl, List.append_nil]
  · rw [hwas, State.resetReached, hr, Bool.or_true]
  · obtain ⟨r, hcycle, hget, -⟩ := step_channel ht hc
    rw [hr, channelCycle_reset] at hcycle
    rw [hget, ← Host.Outcome.next.inj hcycle]
    rfl

/-! ### The frame of the pulse generator's operations (41_pulse_generator.md sections 3 and 4, R231) -/

/-- A pulse generator operation, with the strobe of its event, changes only pulse generator registers and strobes. -/
theorem committed_of_pulseEffect {i : Instr} {e : Sampled} {c : Channel}
    {r : Channel × Option EventInfo} (hi : i.isReader = false) (h : effect i e c = .next r) :
    committed r = { c with pg := (committed r).pg, strobes := (committed r).strobes } := by
  cases i <;> cases h
  case pgReset | rtgNone | rtgI | rtgA | rtgDgi | rtgDga | tkDis | tkWait | tkRise | tkFall => rfl
  all_goals cases hi

/-- An operation that raises an event leaves `phase`, `phase_start` and `pulse_out`. -/
theorem effect_pg_of_raises {i : Instr} {e : Sampled} {c : Channel}
    {r : Channel × Option EventInfo} (hi : i.raises = true) (h : effect i e c = .next r) :
    r.1.pg = { c.pg with target := r.1.pg.target, idleMs := r.1.pg.idleMs } := by
  cases i <;> cases h
  case asTmo | rbTmo | rtTmo | rbOvf | cpDlv | rtgI | rtgA | rtgDgi | rtgDga => rfl
  all_goals cases hi

/-- An operation that raises no event leaves the history and the strobes. -/
theorem commit_of_not_raises {i : Instr} {e : Sampled} {c : Channel}
    {r : Channel × Option EventInfo} (hi : i.raises = false) (h : effect i e c = .next r)
    (s : State) (ch : Nat) :
    (s.commit ch r).history = s.history ∧ (committed r).strobes = c.strobes := by
  obtain ⟨c', event⟩ := r
  have hevent : event.isSome = false := (effect_isSome_event h).trans hi
  obtain rfl : event = none := by simpa using hevent
  exact ⟨rfl, effect_strobes h⟩

/-- An operation that raises an event appends its one record, under the channel's identifier, and asserts its
strobe. -/
theorem commit_of_raises {i : Instr} {e : Sampled} {c : Channel} {r : Channel × Option EventInfo}
    (hi : i.raises = true) (h : effect i e c = .next r) (s : State) (ch : Nat) :
    ∃ x, (s.commit ch r).history =
        s.history ++ [{ now := s.now, ch := ch, chId := c.chId, info := x }] ∧
      (committed r).strobes = c.strobes.assert x := by
  obtain ⟨c', event⟩ := r
  obtain ⟨x, rfl⟩ := Option.isSome_iff_exists.1 ((effect_isSome_event h).trans hi)
  rw [← chId_eq_of_cfg (effect_cfg h), ← effect_strobes h]
  exact ⟨x, rfl, rfl⟩

/-- Settles O52: the effect is on pulse generator registers, its event is the operation's, and the registers of each
operation are read off its effect. -/
theorem frameOfPulseOperations : Obligations.FrameOfPulseOperations := by
  intro i s t ch c hi hc hpulse h
  obtain ⟨r, hr, ht, hcr⟩ := exec_next_at hi hc h
  obtain ⟨-, hbuf⟩ := effect_fr_buf hpulse hr
  have hbytes : s.SameBytes t ch none := by
    rw [ht]
    exact commit_sameBytes hc fun _ _ => by rw [hbuf]
  refine ⟨committed r, hcr, hi ▸ exec_sameOutside h, hbytes, committed_of_pulseEffect hpulse hr,
    fun hraises => ?_, fun hraises => ?_, ?_, ?_, ?_⟩
  · rw [ht]
    exact commit_of_not_raises hraises hr s ch
  · obtain ⟨x, hhist, hstrobes⟩ := commit_of_raises hraises hr s ch
    rw [ht, committed_pg]
    exact ⟨x, hhist, hstrobes, effect_pg_of_raises hraises hr⟩
  · rintro (rfl | rfl) <;> cases hr <;> rfl
  · rintro (rfl | rfl) <;> cases hr <;> rfl
  · rintro ⟨_, _, rfl⟩
    cases hr
    rfl

end Sys2Proof.Machine

namespace Sys2Proof.Machine

/-! The operations that set only reader registers or nothing at all, and the state after reset: what the first reset
cycle leaves of the power-on state (70_reset_and_hazards.md R233, R235), and that the invariants of 10_state.md R34 and
R37 hold there. -/

/-! ### The frame of RD.RESET, AS.ADV, AS.MISS and the waits (40_frame_reader.md sections 3 to 6) -/

theorem effect_of_holds {i : Instr} {e : Sampled} {c : Channel} {r : Channel × Option EventInfo}
    (hi : i.holds = true) (h : effect i e c = .next r) : r = (c, none) := by
  cases i <;> cases h
  case asWait | rbWait | rtWait | cpHold | rtgNone | tkWait => rfl
  all_goals cases hi

/-- What an operation of this class can do: reader registers change, with no event. -/
theorem effect_of_registerOperation {i : Instr} {e : Sampled} {c : Channel} {ch : Nat}
    {r : Channel × Option EventInfo}
    (hi : (∃ st v k e p q, i = .rdReset ch st v k e p q) ∨ (∃ k, i = .asAdv ch k) ∨
      (∃ k q, i = .asMiss ch k q) ∨ i.holds = true)
    (h : effect i e c = .next r) : ∃ fr, r = ({ c with fr := fr }, none) := by
  rcases hi with ⟨_, _, _, _, _, _, rfl⟩ | ⟨_, rfl⟩ | ⟨_, _, rfl⟩ | hholds
  case inr.inr.inr => exact ⟨c.fr, effect_of_holds hholds h⟩
  all_goals
    cases h
    exact ⟨_, rfl⟩

/-- Settles O49: RD.RESET, AS.ADV and AS.MISS set reader registers, the last two the match position alone; the others
leave their channel as it is. -/
theorem frameOfRegisterOperations : Obligations.FrameOfRegisterOperations := by
  intro i s t ch c hi hc hclass h
  obtain ⟨r, hr, ht, hcr⟩ := exec_next_at hi hc h
  obtain ⟨fr, rfl⟩ := effect_of_registerOperation hclass hr
  have hbytes : s.SameBytes t ch none := by
    rw [ht]
    exact commit_sameBytes hc fun _ _ => rfl
  refine ⟨_, hcr, hi ▸ exec_sameOutside h, hbytes, by rw [ht]; rfl, rfl, ?_, fun hholds => ?_⟩
  · rintro (⟨_, rfl⟩ | ⟨_, _, rfl⟩) <;> cases hr <;> rfl
  · exact congrArg (fun r => r.1.fr) (effect_of_holds hholds hr)

/-! ### The state after reset (70_reset_and_hazards.md R233, R235) -/

/-- A legal block's first reset cycle from power-on leaves every channel as after reset, whatever the registers
held. -/
theorem step_powerOn_of_rst {dflt : Nat} {cfgs : List ChannelConfig} {first nxt : CycleIn}
    {script : List CycleIn} (hl : (State.powerOn dflt cfgs first (nxt :: script)).legal = true)
    (hr : first.rst = true) :
    step (State.powerOn dflt cfgs first (nxt :: script)) =
      .next { idleDefaultMs := dflt
              chans := cfgs.map fun cfg => Channel.afterReset cfg dflt first.nowMs
              history := [], inp := nxt, script := script, cycle := 1, wasReset := true } := by
  obtain ⟨⟨idle, chans, history, inp, rest, cycle, wasReset⟩, ht, hhist, hnum, hwas, hchan⟩ :=
    resetCycleFromAnyState _ hl hr
  obtain ⟨-, hidle, hinp, hscript, hcycle, -⟩ := step_next ht
  have hchans : chans = cfgs.map fun cfg => Channel.afterReset cfg dflt first.nowMs := by
    refine List.ext_getElem? fun j => ?_
    rw [List.getElem?_map]
    cases hj : cfgs[j]? with
    | none =>
      have hlen : chans.length = cfgs.length := hnum.trans List.length_mapIdx
      exact List.getElem?_eq_none (hlen ▸ List.getElem?_eq_none_iff.1 hj)
    | some cfg =>
      exact hchan j (Channel.powerOn j cfg) (by simp [State.powerOn, hj])
  dsimp only at hhist hwas hidle hinp hscript hcycle
  subst hhist hwas hidle hinp hscript hcycle hchans
  exact ht

/-- Settles O12: the reference block is legal, and its reset cycle at time 0 is an instance of the one from power-on. -/
theorem resetStateHolds : Obligations.ResetStateHolds := by
  refine ⟨fun nxt => step_powerOn_of_rst rfl rfl, rfl, rfl, rfl, rfl, fun c hc => ?_⟩
  obtain rfl := List.mem_singleton.1 hc
  exact ⟨rfl, rfl, rfl, rfl, rfl⟩

/-! ### The invariants after reset (10_state.md R34, R37) -/

/-- A channel after a reset cycle meets the invariant, whatever its configuration: its buffer is empty, its reader as
ToAwait leaves it and its pulse generator in PG.Idle. -/
theorem afterReset_inv (cfg : ChannelConfig) (idleDefaultMs : Nat) (now : Time) :
    (Channel.afterReset cfg idleDefaultMs now).Inv :=
  ⟨⟨List.Pairwise.nil, fun _ h => absurd h List.not_mem_nil⟩,
    toAwait_readerInv (Channel.afterReset cfg idleDefaultMs now) now, pulseInv_of_idle rfl rfl rfl⟩

/-- Settles O13: the one channel of State.reset is a channel after reset. -/
theorem invariantHoldsAtReset : Obligations.InvariantHoldsAtReset := by
  refine ⟨rfl, fun c hc => ?_⟩
  obtain rfl := List.mem_singleton.1 hc
  exact afterReset_inv ..

end Sys2Proof.Machine
